-- ==== Sys2Proof/Word.lean ====
section
/-! DEFINITION. The two word types of the block (`00_scope.md` R9): a byte is 8 bits, a `u16` is 16 bits, both
unsigned. -/
namespace Sys2Proof

/-- A byte (R9: "A byte is 8 bits, an unsigned value 0..255"). -/
abbrev Byte := BitVec 8

/-- A `u16` (R9). -/
abbrev Word := BitVec 16

end Sys2Proof
end

