-- ==== Sys2Proof/Config.lean ====
section
/-! DEFINITION. The parameters of the block (`00_scope.md` R6), at the values R6 gives this hardware. Nothing here
is state (R25 (a)). `poll_timeout` has no value and is not a parameter of the step (R211, D21). -/
namespace Sys2Proof.Config

/-- `HDR`, the fixed header length in bytes (R6, R62). -/
def hdr : Nat := 9

/-- `MAXP`, the most payload bytes of one frame (R6, D5). -/
def maxp : Nat := 20

/-- `RXCAP`, the capacity of the reassembly buffer in bytes (R6, D6). -/
def rxcap : Nat := 1500

/-- `TXFCAP = HDR + MAXP`, the capacity of the frame buffer (R6). -/
def txfcap : Nat := hdr + maxp

/-- `RX_BURST_MAX`, the most bytes one arrival event delivers; `RXCAP`, that is no restriction (R6, D7). -/
def rxBurstMax : Nat := rxcap

/-- `POLY`, the CRC generator without its top term (R6, R90). -/
def poly : Word := 0x1021

/-- `CRC_INIT`, the CRC's initial register (R6, R91). -/
def crcInit : Word := 0x0000

/-- CRC input reflection: none, each byte is taken most significant bit first (R6, R44). -/
def crcReflectIn : Bool := false

/-- CRC output reflection: none (R6, R90, R94). -/
def crcReflectOut : Bool := false

/-- CRC final XOR: none, that is the value `0x0000` is XORed onto the result (R6, R90, R94). -/
def crcFinalXor : Word := 0x0000

/-- Wire byte order: the most significant byte of a 16-bit field or operand comes first (R6, R43, R45; the
`wire_big_endian` of D2). -/
def wireBigEndian : Bool := true

/-- `K_DATA` (R6, R63). -/
def kData : Byte := 0x01

/-- `K_ACK` (R6, R63). -/
def kAck : Byte := 0x02

/-- `K_NACK` (R6, R63). -/
def kNack : Byte := 0x03

/-- `K_ERR` (R6, R63). -/
def kErr : Byte := 0x04

end Sys2Proof.Config
end

