-- ==== Sys2Proof/Syntax.lean ====
section
/-! DEFINITION. The instructions: one constructor per row of `opcode_table.json`, in the table's order. The first
thirteen are the host commands (`30_encoding.md` R73), the last four the wire frames (R61, R63). A wire frame's
`length` field is not a field here: for `DataSend` it is the number of payload bytes (R62), for the control frames
it is 0 (R65). -/
namespace Sys2Proof

/-- Which of the table's two spaces an instruction is encoded in (`30_encoding.md`, head). -/
inductive Space where
  /-- A transaction on the command port (R72). -/
  | command
  /-- A frame on the channel (R60). -/
  | wireFrame
deriving DecidableEq, Repr

/-- One constructor per row of the opcode table. -/
inductive Instr where
  /-- `RDREG n` (R160). -/
  | rdreg (n : Byte)
  /-- `CRC_CLR` (R92). -/
  | crcClr
  /-- `CRC_UPD b` (R93). -/
  | crcUpd (b : Byte)
  /-- `TXP_CLR` (R101). -/
  | txpClr
  /-- `TXP_PUSH b` (R102). -/
  | txpPush (b : Byte)
  /-- `ENC_DATA s, t` (R103). -/
  | encData (s t : Word)
  /-- `ENC_ACK s, t` (R104). -/
  | encAck (s t : Word)
  /-- `ENC_NACK s, t` (R105). -/
  | encNack (s t : Word)
  /-- `ENC_ERR` (R106). -/
  | encErr
  /-- `TXF_RD i` (R107). -/
  | txfRd (i : Word)
  /-- `READ_FRAME` (R136). -/
  | readFrame
  /-- `DECODE` (R121). -/
  | decode
  /-- `RXB_RD i` (R122). -/
  | rxbRd (i : Word)
  /-- The wire frame `DataSend` (kind 0x01): its checksum, sequence, total and payload (R61, R66). -/
  | dataSend (checksum sequence total : Word) (payload : List Byte)
  /-- The wire frame `Ack` (kind 0x02), length 0 (R61, R65). -/
  | ack (checksum sequence total : Word)
  /-- The wire frame `Nack` (kind 0x03), length 0 (R61, R65). -/
  | nack (checksum sequence total : Word)
  /-- The wire frame `Err` (kind 0x04), length 0 (R61, R65). -/
  | err (checksum sequence total : Word)
deriving DecidableEq, Repr

/-- The space an instruction is encoded in. -/
def Instr.space : Instr → Space
  | .rdreg _ | .crcClr | .crcUpd _ | .txpClr | .txpPush _ | .encData _ _ | .encAck _ _ | .encNack _ _
  | .encErr | .txfRd _ | .readFrame | .decode | .rxbRd _ => .command
  | .dataSend _ _ _ _ | .ack _ _ _ | .nack _ _ _ | .err _ _ _ => .wireFrame

end Sys2Proof
end

