-- ==== Sys2Proof/WellFormed.lean ====
section
/-! DEFINITION. Which instruction terms stand for words of the spec. The operand types hold exactly the values the
encodings admit, except for one: the payload of a `DataSend` frame must be countable by its 16-bit `length` field
(`30_encoding.md` R61; `41_frame_encoder.md` R100: `|p| <= 65535`). The bound `MAXP` of the encoder is no condition on a
received frame (`42_frame_decoder.md` R126). -/
namespace Sys2Proof

/-- The payload is at most 65535 bytes; every other instruction term is well formed. -/
def wellFormed : Instr → Bool
  | .dataSend _ _ _ payload => decide (payload.length ≤ 65535)
  | .rdreg _ | .crcClr | .crcUpd _ | .txpClr | .txpPush _ | .encData _ _ | .encAck _ _ | .encNack _ _
  | .encErr | .txfRd _ | .readFrame | .decode | .rxbRd _ | .ack _ _ _ | .nack _ _ _ | .err _ _ _ => true

end Sys2Proof
end

