-- ==== Sys2Proof/Decode.lean ====
section
/-! DEFINITION. The encodings: byte order (`20_memory.md` R43, R45), the command word (`30_encoding.md` R72 to R74) and the
wire frame (R60 to R68). Decoding is total on any bytes and rejects by name; a rejected command is refused by the
machine (R161), a rejected burst of bytes is an arrival that is no whole frame (R55). The encoder stands after it. -/
namespace Sys2Proof

/-- `BE16(h, l)` (R9): the byte that comes first is the high half. -/
def be16Join (h l : Byte) : Word := (h.setWidth 16 <<< 8) ||| l.setWidth 16

/-- `be16(v) = [v[15:8], v[7:0]]` (R9). -/
def be16 (v : Word) : List Byte := [v.extractLsb' 8 8, v.extractLsb' 0 8]

/-- A 16-bit field or operand from its first and its second byte on the wire, in the byte order of R6 (R43, R45). -/
def wireJoin (first second : Byte) : Word :=
  if Config.wireBigEndian then be16Join first second else be16Join second first

/-- The two bytes of a 16-bit field or operand, the first on the wire first (R6, R43, R45). -/
def wireSplit (v : Word) : List Byte := if Config.wireBigEndian then be16 v else (be16 v).reverse

@[simp] theorem wireSplit_length (v : Word) : (wireSplit v).length = 2 := rfl

/-- Why bytes are no instruction of the table. -/
inductive DecodeError where
  /-- A transaction of no byte: it has no code (R72 gives 1 to 5 bytes; log entry 7). -/
  | emptyTransaction
  /-- A code not in the table (R74). -/
  | undefinedCode (code : Byte)
  /-- A byte count that does not match the code (R72). -/
  | byteCount (code : Byte) (bytes : Nat)
  /-- Fewer than 9 bytes: no header (R60). -/
  | shortHeader (bytes : Nat)
  /-- A byte count other than 9 + length (R62). -/
  | frameLength (length bytes : Nat)
  /-- A control kind whose length field is not 0 (R65, R71). -/
  | controlLength (kind : Byte) (length : Nat)
  /-- A kind that is none of the four (R63, R70). -/
  | unassignedKind (kind : Byte)
deriving DecidableEq, Repr

/-- No operand bytes (1-byte commands). -/
def operandNone (code : Byte) (ops : List Byte) (i : Instr) : Except DecodeError Instr :=
  match ops with
  | [] => .ok i
  | _ => .error (.byteCount code (ops.length + 1))

/-- One `u8` operand (2-byte commands). -/
def operandU8 (code : Byte) (ops : List Byte) (f : Byte → Instr) : Except DecodeError Instr :=
  match ops with
  | [b] => .ok (f b)
  | _ => .error (.byteCount code (ops.length + 1))

/-- One `u16` operand, most significant byte first (3-byte commands). -/
def operandU16 (code : Byte) (ops : List Byte) (f : Word → Instr) : Except DecodeError Instr :=
  match ops with
  | [h, l] => .ok (f (wireJoin h l))
  | _ => .error (.byteCount code (ops.length + 1))

/-- Two `u16` operands (5-byte commands). -/
def operandU16U16 (code : Byte) (ops : List Byte) (f : Word → Word → Instr) : Except DecodeError Instr :=
  match ops with
  | [sh, sl, th, tl] => .ok (f (wireJoin sh sl) (wireJoin th tl))
  | _ => .error (.byteCount code (ops.length + 1))

/-- The command table (R73), by code; every other code is undefined (R74). -/
def decodeCoded (code : Byte) (ops : List Byte) : Except DecodeError Instr :=
  match code.toNat with
  | 0x02 => operandU8 code ops .rdreg
  | 0x10 => operandNone code ops .crcClr
  | 0x11 => operandU8 code ops .crcUpd
  | 0x20 => operandNone code ops .txpClr
  | 0x21 => operandU8 code ops .txpPush
  | 0x22 => operandU16U16 code ops .encData
  | 0x23 => operandU16U16 code ops .encAck
  | 0x24 => operandU16U16 code ops .encNack
  | 0x25 => operandNone code ops .encErr
  | 0x26 => operandU16 code ops .txfRd
  | 0x30 => operandNone code ops .readFrame
  | 0x31 => operandNone code ops .decode
  | 0x32 => operandU16 code ops .rxbRd
  | _ => .error (.undefinedCode code)

/-- One transaction of the command port (R72): the code, then its operand bytes. -/
def decodeCommand : List Byte → Except DecodeError Instr
  | [] => .error .emptyTransaction
  | code :: ops => decodeCoded code ops

/-- The four kinds (R63), once the header's fields are assembled (R64). -/
def decodeKind (kind : Byte) (checksum sequence total length : Word) (payload : List Byte) :
    Except DecodeError Instr :=
  if payload.length ≠ length.toNat then .error (.frameLength length.toNat (Config.hdr + payload.length))
  else if kind = Config.kData then .ok (.dataSend checksum sequence total payload)
  else if kind ≠ Config.kAck ∧ kind ≠ Config.kNack ∧ kind ≠ Config.kErr then .error (.unassignedKind kind)
  else if length.toNat ≠ 0 then .error (.controlLength kind length.toNat)
  else if kind = Config.kAck then .ok (.ack checksum sequence total)
  else if kind = Config.kNack then .ok (.nack checksum sequence total)
  else .ok (.err checksum sequence total)

/-- A whole wire frame (R61, R64): nine header bytes and exactly `length` payload bytes. -/
def decodeFrame : List Byte → Except DecodeError Instr
  | c0 :: c1 :: kind :: s0 :: s1 :: t0 :: t1 :: l0 :: l1 :: payload =>
    decodeKind kind (wireJoin c0 c1) (wireJoin s0 s1) (wireJoin t0 t1) (wireJoin l0 l1) payload
  | bs => .error (.shortHeader bs.length)

/-- Decoding in either space. -/
def decode : Space → List Byte → Except DecodeError Instr
  | .command => decodeCommand
  | .wireFrame => decodeFrame

/-- A frame's bytes from its fields (R61, R64 "On encode the inverse"): checksum, kind, sequence, total, length, payload. -/
def wireBytes (checksum : Word) (kind : Byte) (sequence total length : Word) (payload : List Byte) : List Byte :=
  wireSplit checksum ++ [kind] ++ wireSplit sequence ++ wireSplit total ++ wireSplit length ++ payload

/-- The bytes of an instruction (R73 for commands, R61 for frames). -/
def encode : Instr → List Byte
  | .rdreg n => [0x02, n]
  | .crcClr => [0x10]
  | .crcUpd b => [0x11, b]
  | .txpClr => [0x20]
  | .txpPush b => [0x21, b]
  | .encData s t => [0x22] ++ wireSplit s ++ wireSplit t
  | .encAck s t => [0x23] ++ wireSplit s ++ wireSplit t
  | .encNack s t => [0x24] ++ wireSplit s ++ wireSplit t
  | .encErr => [0x25]
  | .txfRd i => [0x26] ++ wireSplit i
  | .readFrame => [0x30]
  | .decode => [0x31]
  | .rxbRd i => [0x32] ++ wireSplit i
  | .dataSend ck s t p => wireBytes ck Config.kData s t (BitVec.ofNat 16 p.length) p
  | .ack ck s t => wireBytes ck Config.kAck s t 0 []
  | .nack ck s t => wireBytes ck Config.kNack s t 0 []
  | .err ck s t => wireBytes ck Config.kErr s t 0 []

/-- The `n` bytes of a table word, its most significant byte first (`30_encoding.md`: "first byte most significant";
log entry 9). -/
def tableBytes : Nat → Nat → List Byte
  | 0, _ => []
  | n + 1, w => BitVec.ofNat 8 (w / 256 ^ n) :: tableBytes n w

/-- The zero payload bytes that follow a header given as a table word: as many as its length field (the word's low
16 bits) announces when its kind (bits 55..48) is `DataSend`. -/
def tablePayload (w : Nat) : List Byte :=
  if BitVec.ofNat 8 (w / 256 ^ 6) = Config.kData then List.replicate (w % 65536) 0 else []

/-- Which space a table word of `nbits` bits belongs to: a command has at most 40 bits, a frame's header has 72. -/
def tableSpace (nbits : Nat) : Space := if nbits ≤ 40 then .command else .wireFrame

/-- The bytes of a table word, laid out as the port or the channel carries them. -/
def tableWordBytes (nbits w : Nat) : List Byte :=
  match tableSpace nbits with
  | .command => tableBytes (nbits / 8) w
  | .wireFrame => tableBytes (nbits / 8) w ++ tablePayload w

/-- The instruction of a table word (bits numbered as `opcode_table.json` numbers them), `none` where the decoder rejects it. -/
def decodeTableWord (nbits w : Nat) : Option Instr :=
  (decode (tableSpace nbits) (tableWordBytes nbits w)).toOption

end Sys2Proof
end

