-- ==== Sys2Proof/Machine/State.lean ====
section
/-! DEFINITION. The machine's state (`10_state.md` R10), its outcomes, and the state after reset (R26). The counters
carry the bounds R10 gives them in their types. The last four fields are the block's ports and its surroundings:
the response port, the commands the port holds (R143), the bytes the channel holds (R25 (b)), and what the agents
outside do next (R8). -/
namespace Sys2Proof.Machine

/-- One byte space of `20_memory.md` R40 as address and byte pairs in canonical form: addresses strictly rising, no byte
listed that equals what an unlisted address reads as (log entry 1). -/
abbrev Memory := List Host.Cell

/-- The phase of the Message Reader (R16). -/
inductive RdPhase where
  /-- No read in progress. -/
  | idle
  /-- Accumulating the nine header bytes. -/
  | hdr
  /-- Accumulating the payload a data-bearing header announced. -/
  | pay
deriving DecidableEq, Repr

/-- What an agent outside the block does (R8, R75). -/
inductive Input where
  /-- The host issues a command: the bytes of one transaction (R72). -/
  | command (bytes : List Byte)
  /-- The channel's read returned these bytes (`RX_BURST`, R137). -/
  | rxBurst (bytes : List Byte)
  /-- The channel's poll signalled no data, timed out or failed (`RX_TIMEOUT`, R140). -/
  | rxTimeout
  /-- The `RESET` input (R220). -/
  | reset
deriving DecidableEq, Repr

/-- The complete state (R10), the ports, and the surroundings. -/
structure State where
  /-- `crc`, the checksum accumulator (R11). -/
  crc : Word
  /-- `txp`, the transmit payload buffer (R12). -/
  txp : Memory
  /-- `tx_plen`, 0..MAXP (R12). -/
  txPlen : Fin (Config.maxp + 1)
  /-- `txf`, the transmit frame buffer (R13). -/
  txf : Memory
  /-- `tx_flen`, 0 or 9..TXFCAP (R13). -/
  txFlen : Fin (Config.txfcap + 1)
  /-- `rxb`, the reassembly buffer (R14). -/
  rxb : Memory
  /-- `rx_count`, 0..RXCAP (R14). -/
  rxCount : Fin (Config.rxcap + 1)
  /-- `rx_need`, 9..RXCAP (R15). -/
  rxNeed : Fin (Config.rxcap + 1)
  /-- `rd_phase` (R16). -/
  rdPhase : RdPhase
  /-- `rx_valid` (R17). -/
  rxValid : Bool
  /-- `rx_kind` (R18). -/
  rxKind : Byte
  /-- `rx_seq` (R18). -/
  rxSeq : Word
  /-- `rx_total` (R18). -/
  rxTotal : Word
  /-- `rx_len` (R18). -/
  rxLen : Word
  /-- `tx_ovf`, sticky (R19). -/
  txOvf : Bool
  /-- `cmd_err`, sticky (R20). -/
  cmdErr : Bool
  /-- The response the last command or event returned, `none` where it returned nothing (R162; log entry 2). -/
  resp : Option Word
  /-- The commands issued while the block was busy, oldest first (R143; log entry 3). -/
  held : List (List Byte)
  /-- The bytes the channel holds for the reader, in the pieces its reads return them in (R203; log entry 4). -/
  chan : List (List Byte)
  /-- What the host, the channel and the platform do next, in order (R8; log entry 5). -/
  inputs : List Input
deriving DecidableEq, Repr

/-- Faults: none. The spec gives the block four exceptional outcomes, "and no others" (`60_exceptions.md` R200), and each
is a value or a flag; no step of the machine stops with a fault. -/
inductive Fault where
deriving DecidableEq, Repr

/-- Refusals. -/
inductive Refusal where
  /-- Raised by `exec` for an instruction that has no meaning yet; safe. No arm raises it. -/
  | notModelled (mnemonic : String)
deriving DecidableEq, Repr

/-- The state after reset (R26, R235): every field at R26's value, the buffers with nothing listed (log entry 1), no
response, no command held, and nothing in the channel or to come (log entries 2, 4, 5). -/
def State.reset : State where
  crc := Config.crcInit
  txp := []
  txPlen := 0
  txf := []
  txFlen := 0
  rxb := []
  rxCount := 0
  rxNeed := ⟨9, by decide⟩
  rdPhase := .idle
  rxValid := false
  rxKind := 0
  rxSeq := 0
  rxTotal := 0
  rxLen := 0
  txOvf := false
  cmdErr := false
  resp := none
  held := []
  chan := []
  inputs := []

end Sys2Proof.Machine
end

