-- ==== Sys2Proof/Machine/Flags.lean ====
section
/-! DEFINITION. The three flags and the STATUS view (`10_state.md` R19 to R21). -/
namespace Sys2Proof.Machine

/-- One bit as a 16-bit value in bit position `k`. -/
def statusBit (b : Bool) (k : Nat) : Word := (BitVec.ofBool b).setWidth 16 <<< k

/-- `STATUS` (R21): bit 0 `rx_valid`, bit 1 `tx_ovf`, bit 2 `cmd_err`, bits 15..3 zero. -/
def statusWord (s : State) : Word :=
  statusBit s.rxValid 0 ||| statusBit s.txOvf 1 ||| statusBit s.cmdErr 2

/-- `tx_ovf <- 1` (R19). -/
def setTxOvf (s : State) : State := { s with txOvf := true }

/-- `cmd_err <- 1` (R20). -/
def setCmdErr (s : State) : State := { s with cmdErr := true }

end Sys2Proof.Machine
end

