-- ==== Sys2Proof/Machine/Ops.lean ====
section
/-! DEFINITION. The named operations every meaning is written over: the byte spaces (`20_memory.md` R40), responses
(`44_system_ops.md` R162), the command port (`43_message_reader.md` R143), and the block's exceptional outcomes as shared
operations: the refusal of a command (R161), the read abort (R205, "the nearest thing to a trap entry"), the start
of a read (R136, R206 "the nearest thing to a trap return"), and RESET (R220). -/
namespace Sys2Proof.Machine

/-- What an address that is not listed reads as. The spec leaves the contents of a buffer after reset open and
unobservable (R26, U10). DESIGN CHOICE 0x00 (log entry 1), unsafe. -/
def unlistedByte : Byte := 0x00

/-- The byte at an address. -/
def memRead : Memory → Nat → Byte
  | [], _ => unlistedByte
  | (k, v) :: rest, a => if k = a then v else memRead rest a

/-- A listing of one byte: nothing where it equals what an unlisted address reads as. -/
def memCell (a : Nat) (b : Byte) : Memory := if b = unlistedByte then [] else [(a, b)]

/-- Writing one byte, keeping the canonical form. -/
def memWrite : Memory → Nat → Byte → Memory
  | [], a, b => memCell a b
  | (k, v) :: rest, a, b =>
    if a < k then memCell a b ++ (k, v) :: rest
    else if a = k then memCell a b ++ rest
    else (k, v) :: memWrite rest a b

/-- `B[a..] <- bs`, byte by byte. -/
def memWriteBytes : Memory → Nat → List Byte → Memory
  | m, _, [] => m
  | m, a, b :: bs => memWriteBytes (memWrite m a b) (a + 1) bs

/-- The `n` bytes from address `a`. -/
def memSlice (m : Memory) : Nat → Nat → List Byte
  | _, 0 => []
  | a, n + 1 => memRead m a :: memSlice m (a + 1) n

/-- The canonical form, from address `lo` on. -/
def memWfFrom : Nat → Memory → Bool
  | _, [] => true
  | lo, (k, v) :: rest => decide (lo ≤ k) && v != unlistedByte && memWfFrom (k + 1) rest

/-- The canonical form: addresses strictly rising, no byte listed that an unlisted address reads as. -/
def Memory.wf (m : Memory) : Bool := memWfFrom 0 m

/-- Every listed address lies in a space of `size` bytes (R40's index ranges). -/
def memWithin (size : Nat) (m : Memory) : Bool := m.all fun c => decide (c.1 < size)

/-- The command returns this value. -/
def answer (v : Word) (s : State) : State := { s with resp := some v }

/-- The command returns nothing. -/
def silent (s : State) : State := { s with resp := none }

/-- A refused command (R161): `cmd_err <- 1`, response 0x0000, no other change. -/
def refuse (s : State) : State := answer 0 (setCmdErr s)

/-- A command issued while the block is busy (R143): it does not run, is not refused and sets no flag. -/
def hold (bytes : List Byte) (s : State) : State := { s with held := s.held ++ [bytes] }

/-- The command port (R143): the command whose bytes these are runs when the block is idle and is held when it is busy. -/
def atPort (bytes : List Byte) (run : State → State) (s : State) : State :=
  if s.rdPhase = .idle then run s else hold bytes s

/-- A command that is none of the table (R161 (a), (b)): refused when the port is ready, held when it is not (R143). -/
def malformed (bytes : List Byte) (s : State) : State := atPort bytes refuse s

/-- The read abort (R140, R141, R205): the bytes are discarded, nothing is saved, and the pending READ_FRAME gets the
response 0. -/
def readAbort (s : State) : State :=
  answer 0 { s with rxCount := 0, rxNeed := ⟨9, by decide⟩, rdPhase := .idle }

/-- The read completes (R139): the response is the byte count. -/
def readComplete (s : State) : State :=
  answer (BitVec.ofNat 16 s.rxCount.val) { s with rdPhase := .idle }

/-- The frame registers and `rx_valid` at 0 (R18: "no frame"). -/
def clearDecoded (s : State) : State :=
  { s with rxValid := false, rxKind := 0, rxSeq := 0, rxTotal := 0, rxLen := 0 }

/-- A read starts (R136), also the recovery from an abort (R206). -/
def beginRead (s : State) : State :=
  silent { clearDecoded s with rxCount := 0, rxNeed := ⟨9, by decide⟩, rdPhase := .hdr }

/-- RESET (R220, R221): the block as after reset, no response to a pending read, held commands dropped; the bytes in
the channel and what the agents outside do next are not the block's. -/
def resetBlock (s : State) : State := { State.reset with chan := s.chan, inputs := s.inputs }

end Sys2Proof.Machine
end

