-- ==== Sys2Proof/Machine/Checksum.lean ====
section
/-! DEFINITION. The Checksum unit (`40_checksum.md`): the functions `crc16_update` and `crc16` (R90, R91) and the
accumulator commands `CRC_CLR` (R92) and `CRC_UPD` (R93). -/
namespace Sys2Proof.Machine

/-- One of the 8 iterations of R90: the top bit is tested before the shift, the polynomial XORed in after it. -/
def crcShift (c : Word) : Word :=
  if c.getLsbD 15 then (c <<< 1) ^^^ Config.poly else c <<< 1

/-- `n` iterations. -/
def crcShifts : Nat → Word → Word
  | 0, c => c
  | n + 1, c => crcShifts n (crcShift c)

/-- A byte as it enters the register: as it is, since R6 gives no input reflection (R44, R90). -/
def crcInput (b : Byte) : Byte := if Config.crcReflectIn then b.reverse else b

/-- The register as it is handed out: as it is, since R6 gives no output reflection and no final XOR (R90, R94). -/
def crcOutput (c : Word) : Word := (if Config.crcReflectOut then c.reverse else c) ^^^ Config.crcFinalXor

/-- `crc16_update(c, b)` (R90). -/
def crcUpdate (c : Word) (b : Byte) : Word := crcShifts 8 (c ^^^ ((crcInput b).setWidth 16 <<< 8))

/-- `crc16(bs)` (R91). -/
def crc16 (bs : List Byte) : Word := crcOutput (bs.foldl crcUpdate Config.crcInit)

/-- `CRC_CLR` (R92). -/
def execCrcClr (s : State) : Host.Outcome State Fault Refusal :=
  .next (atPort (encode .crcClr) (fun s => silent { s with crc := Config.crcInit }) s)

/-- `CRC_UPD b` (R93). -/
def execCrcUpd (b : Byte) (s : State) : Host.Outcome State Fault Refusal :=
  .next (atPort (encode (.crcUpd b)) (fun s => silent { s with crc := crcUpdate s.crc b }) s)

end Sys2Proof.Machine
end

