-- ==== Sys2Proof/Machine/Operands.lean ====
section
/-! DEFINITION. The operand forms of the commands that name something inside the block: a register number
(`10_state.md` R22) and a buffer index (`41_frame_encoder.md` R107, `42_frame_decoder.md` R122). `none` is an operand that
names nothing; the command is then refused (`44_system_ops.md` R161). Also the field reads of the header (R64). -/
namespace Sys2Proof.Machine

/-- A count as the 16-bit value a command returns (R22: zero-extended to 16 bits). -/
def countWord (n : Nat) : Word := BitVec.ofNat 16 n

/-- The value of register `n` (R22); numbers 11..255 are undefined. `CRC` is read as a finished checksum, which at R6's values is
`crc` itself (R94). -/
def regValue (n : Byte) (s : State) : Option Word :=
  match n.toNat with
  | 0 => some (statusWord s)
  | 1 => some (crcOutput s.crc)
  | 2 => some (countWord s.txPlen.val)
  | 3 => some (countWord s.txFlen.val)
  | 4 => some (countWord s.rxCount.val)
  | 5 => some (s.rxKind.setWidth 16)
  | 6 => some s.rxSeq
  | 7 => some s.rxTotal
  | 8 => some s.rxLen
  | 9 => some (countWord Config.maxp)
  | 10 => some (countWord Config.rxcap)
  | _ => none

/-- The byte at index `i` of a buffer that holds `count` bytes, zero-extended; `none` for `i >= count`. -/
def bufferByte (m : Memory) (count : Nat) (i : Word) : Option Word :=
  if i.toNat < count then some ((memRead m i.toNat).setWidth 16) else none

/-- The command returns the operand's value, or is refused where the operand names nothing. -/
def answerOperand (v : Option Word) (s : State) : State :=
  match v with
  | some w => answer w s
  | none => refuse s

/-- `BE16(bs[i], bs[i+1])`, a 16-bit field of a frame (R64). -/
def field16 (bs : List Byte) (i : Nat) : Word := wireJoin (bs.getD i 0) (bs.getD (i + 1) 0)

/-- The same field read from a buffer. -/
def memField16 (m : Memory) (i : Nat) : Word := wireJoin (memRead m i) (memRead m (i + 1))

end Sys2Proof.Machine
end

