-- ==== Sys2Proof/Machine/Decoder.lean ====
section
/-! DEFINITION. The frame codec's decoder half (`42_frame_decoder.md`): the function `decode_and_verify` (R120), `DECODE` (R121)
and `RXB_RD` (R122). -/
namespace Sys2Proof.Machine

/-- The source's `Frame` record (R120). -/
structure Frame where
  /-- The raw kind byte (R125). -/
  kind : Byte
  sequence : Word
  total : Word
  length : Word
  payload : List Byte
deriving DecidableEq, Repr

/-- `decode_and_verify(bs, n)` (R120); `none` is `Invalid`. -/
def decodeAndVerify (bs : List Byte) (n : Nat) : Option Frame :=
  if n < Config.hdr then none
  else if Config.hdr + (field16 bs 7).toNat ≠ n then none
  else if crc16 ((bs.take n).drop 2) ≠ field16 bs 0 then none
  else some
    { kind := bs.getD 2 0
      sequence := field16 bs 3
      total := field16 bs 5
      length := field16 bs 7
      payload := (bs.take n).drop Config.hdr }

/-- The accumulated bytes, `rxb[0..rx_count-1]` (R14). -/
def received (s : State) : List Byte := memSlice s.rxb 0 s.rxCount.val

/-- What `DECODE` does with the result (R121). -/
def storeDecoded (r : Option Frame) (s : State) : State :=
  match r with
  | some f =>
    answer 1 { s with
      rxValid := true, rxKind := f.kind, rxSeq := f.sequence, rxTotal := f.total, rxLen := f.length }
  | none => answer 0 (clearDecoded s)

/-- `DECODE` (R121). -/
def execDecode (s : State) : Host.Outcome State Fault Refusal :=
  .next (atPort (encode .decode) (fun s => storeDecoded (decodeAndVerify (received s) s.rxCount.val) s) s)

/-- `RXB_RD i` (R122). -/
def execRxbRd (i : Word) (s : State) : Host.Outcome State Fault Refusal :=
  .next (atPort (encode (.rxbRd i)) (fun s => answerOperand (bufferByte s.rxb s.rxCount.val i) s) s)

end Sys2Proof.Machine
end

