-- ==== Sys2Proof/Machine/Encoder.lean ====
section
/-! DEFINITION. The frame codec's encoder half (`41_frame_encoder.md`): the function `frame_bytes` (R100), the payload buffer
(R101, R102), the four encode commands (R103 to R106) and the frame buffer's read (R107). -/
namespace Sys2Proof.Machine

/-- The checksum's input (R96, R100): every byte of the frame after the checksum field. -/
def frameBody (kind : Byte) (seq total : Word) (p : List Byte) : List Byte :=
  [kind] ++ wireSplit seq ++ wireSplit total ++ wireSplit (BitVec.ofNat 16 p.length) ++ p

/-- `frame_bytes(kind, seq, total, p)` (R100), the checksum computed last. -/
def frameBytes (kind : Byte) (seq total : Word) (p : List Byte) : List Byte :=
  wireSplit (crc16 (frameBody kind seq total p)) ++ frameBody kind seq total p

/-- The frame is `9 + |p|` bytes long (R62, R100). -/
theorem frameBytes_length (kind : Byte) (seq total : Word) (p : List Byte) :
    (frameBytes kind seq total p).length = 9 + p.length := by
  simp [frameBytes, frameBody]; omega

/-- The payload pushed so far, `txp[0..tx_plen-1]` (R12). -/
def payload (s : State) : List Byte := memSlice s.txp 0 s.txPlen.val

/-- A slice has the length asked for. -/
theorem memSlice_length (m : Memory) (a n : Nat) : (memSlice m a n).length = n := by
  induction n generalizing a with
  | zero => rfl
  | succ n ih => simp [memSlice, ih]

/-- At most `MAXP` payload bytes (R12). -/
theorem payload_length_le (s : State) : (payload s).length ≤ Config.maxp := by
  rw [payload, memSlice_length]; exact Nat.le_of_lt_succ s.txPlen.isLt

/-- `txf[0..|f|-1] <- f ; tx_flen <- |f|` for the frame of these fields (R103 to R106); no response. -/
def storeFrame (kind : Byte) (seq total : Word) (p : List Byte) (hp : p.length ≤ Config.maxp) (s : State) : State :=
  silent { s with
    txf := memWriteBytes s.txf 0 (frameBytes kind seq total p)
    txFlen := ⟨(frameBytes kind seq total p).length, by
      rw [frameBytes_length]; simp only [Config.txfcap, Config.hdr]; omega⟩ }

/-- A control frame: no payload (R65). -/
def storeControl (kind : Byte) (seq total : Word) (s : State) : State :=
  storeFrame kind seq total [] (by decide) s

/-- `TXP_CLR` (R101): the bytes stay, unreachable. -/
def execTxpClr (s : State) : Host.Outcome State Fault Refusal :=
  .next (atPort (encode .txpClr) (fun s => silent { s with txPlen := 0 }) s)

/-- The byte is appended to the payload, or dropped with `tx_ovf` set when the buffer is full (R102). -/
def pushByte (b : Byte) (s : State) : State :=
  if h : s.txPlen.val < Config.maxp then
    silent { s with txp := memWrite s.txp s.txPlen.val b, txPlen := ⟨s.txPlen.val + 1, by omega⟩ }
  else silent (setTxOvf s)

/-- `TXP_PUSH b` (R102). -/
def execTxpPush (b : Byte) (s : State) : Host.Outcome State Fault Refusal :=
  .next (atPort (encode (.txpPush b)) (pushByte b) s)

/-- `ENC_DATA s, t` (R103). -/
def execEncData (seq total : Word) (s : State) : Host.Outcome State Fault Refusal :=
  .next (atPort (encode (.encData seq total))
    (fun s => storeFrame Config.kData seq total (payload s) (payload_length_le s) s) s)

/-- `ENC_ACK s, t` (R104). -/
def execEncAck (seq total : Word) (s : State) : Host.Outcome State Fault Refusal :=
  .next (atPort (encode (.encAck seq total)) (storeControl Config.kAck seq total) s)

/-- `ENC_NACK s, t` (R105). -/
def execEncNack (seq total : Word) (s : State) : Host.Outcome State Fault Refusal :=
  .next (atPort (encode (.encNack seq total)) (storeControl Config.kNack seq total) s)

/-- `ENC_ERR` (R106): sequence and total are 0. -/
def execEncErr (s : State) : Host.Outcome State Fault Refusal :=
  .next (atPort (encode .encErr) (storeControl Config.kErr 0 0) s)

/-- `TXF_RD i` (R107). -/
def execTxfRd (i : Word) (s : State) : Host.Outcome State Fault Refusal :=
  .next (atPort (encode (.txfRd i)) (fun s => answerOperand (bufferByte s.txf s.txFlen.val i) s) s)

end Sys2Proof.Machine
end

