-- ==== Sys2Proof/Machine/Reader.lean ====
section
/-! DEFINITION. The Message Reader (`43_message_reader.md`): `READ_FRAME` (R136), the channel events `RX_BURST` (R137 to
R139, R141) and `RX_TIMEOUT` (R140), and what the channel does with bytes the block does not take (R137, R203). -/
namespace Sys2Proof.Machine

/-- `READ_FRAME` (R136): the start step of a read; the response comes with the event that ends it. -/
def execReadFrame (s : State) : Host.Outcome State Fault Refusal :=
  .next (atPort (encode .readFrame) beginRead s)

/-- The most bytes one burst may carry now (R137): `min(RX_BURST_MAX, RXCAP - rx_count)`. -/
def room (s : State) : Nat := min Config.rxBurstMax (Config.rxcap - s.rxCount.val)

/-- The room never exceeds what the buffer can still hold (R137: "a burst cannot overflow `rxb`"). -/
theorem count_add_take_le (bs : List Byte) (s : State) :
    s.rxCount.val + (bs.take (room s)).length < Config.rxcap + 1 := by
  have := s.rxCount.isLt
  simp only [List.length_take, room]; omega

/-- The append of R137: the burst's bytes after those accumulated, at most as many as there is room for. -/
def appendBytes (bs : List Byte) (s : State) : State :=
  { s with
    rxb := memWriteBytes s.rxb s.rxCount.val (bs.take (room s))
    rxCount := ⟨s.rxCount.val + (bs.take (room s)).length, count_add_take_le bs s⟩ }

/-- The completion test in phase `PAY` (R137, R139); a burst that does not end the read returns nothing. -/
def completionTest (s : State) : State :=
  if s.rdPhase = .pay ∧ s.rxNeed.val ≤ s.rxCount.val then readComplete s else silent s

/-- The length a data-bearing header announces, `9 + length`, a natural number that does not wrap (R62, R138). -/
def announced (s : State) : Nat := Config.hdr + (memField16 s.rxb 7).toNat

/-- A data-bearing header that fits: what is needed is what it announces, and the payload is awaited (R137). -/
def awaitPayload (s : State) (h : announced s ≤ Config.rxcap) : State :=
  { s with rxNeed := ⟨announced s, Nat.lt_succ_of_le h⟩, rdPhase := .pay }

/-- Header inspection (R137, R138): only kind 0x01 is data-bearing; a frame that cannot fit aborts the read (R141). -/
def inspectHeader (s : State) : State :=
  if memRead s.rxb 2 = Config.kData then
    if h : announced s ≤ Config.rxcap then completionTest (awaitPayload s h) else readAbort s
  else readComplete s

/-- What follows the append in the same step (R137). -/
def afterAppend (s : State) : State :=
  if s.rdPhase = .hdr ∧ Config.hdr ≤ s.rxCount.val then inspectHeader s else completionTest s

/-- `RX_BURST(bs)` (R137), one atomic step. -/
def rxBurst (bs : List Byte) (s : State) : State := afterAppend (appendBytes bs s)

/-- Bytes that arrive while the block is idle stay in the channel (R203). -/
def stayInChannel (bs : List Byte) (s : State) : State :=
  if bs = [] then s else { s with chan := s.chan ++ [bs] }

/-- The bytes a read did not return are still at the head of the channel's stream (R137: the block asks for no more than
it can hold). -/
def putBack (bs : List Byte) (s : State) : State :=
  if bs = [] then s else { s with chan := bs :: s.chan }

/-- What the channel has for the reader (R137, R147): while the block is busy, as much of it as there is room for is one
`RX_BURST` and a read that returns no byte counts as `RX_TIMEOUT` (D14); while it is idle no event is enabled. -/
def receive (bs : List Byte) (s : State) : State :=
  if s.rdPhase = .idle then stayInChannel bs s
  else if bs.take (room s) = [] then readAbort (putBack (bs.drop (room s)) s)
  else rxBurst bs (putBack (bs.drop (room s)) s)

/-- `RX_TIMEOUT` (R140); with no read in progress there is no poll that could time out (R51, R203; log entry 8). -/
def rxTimeout (s : State) : State :=
  if s.rdPhase = .idle then s else readAbort s

end Sys2Proof.Machine
end

