-- ==== Sys2Proof/Machine/Frames.lean ====
section
/-! DEFINITION. The four wire frames of the opcode table as instructions: a whole frame that arrives at the block's receive
side as one read of the channel (`30_encoding.md` R61; `43_message_reader.md` R137, R147). The Message Reader looks at the
frame's kind and length and at nothing else (R138, R148); the checksum is verified by `DECODE` only. See log entry 6. -/
namespace Sys2Proof.Machine

/-- A `DataSend` frame arrives (R61, R66, R138). -/
def execDataSend (checksum sequence total : Word) (payload : List Byte) (s : State) :
    Host.Outcome State Fault Refusal :=
  .next (receive (encode (.dataSend checksum sequence total payload)) s)

/-- An `Ack` frame arrives (R61, R65). -/
def execAck (checksum sequence total : Word) (s : State) : Host.Outcome State Fault Refusal :=
  .next (receive (encode (.ack checksum sequence total)) s)

/-- A `Nack` frame arrives (R61, R65). -/
def execNack (checksum sequence total : Word) (s : State) : Host.Outcome State Fault Refusal :=
  .next (receive (encode (.nack checksum sequence total)) s)

/-- An `Err` frame arrives (R61, R65). -/
def execErr (checksum sequence total : Word) (s : State) : Host.Outcome State Fault Refusal :=
  .next (receive (encode (.err checksum sequence total)) s)

end Sys2Proof.Machine
end

