-- ==== Sys2Proof/Machine/System.lean ====
section
/-! DEFINITION. The system operation `RDREG` (`44_system_ops.md` R160). Refused commands are `Machine/Ops.lean`'s `refuse`
and `malformed`. -/
namespace Sys2Proof.Machine

/-- `RDREG n` (R160). -/
def execRdreg (n : Byte) (s : State) : Host.Outcome State Fault Refusal :=
  .next (atPort (encode (.rdreg n)) (fun s => answerOperand (regValue n s) s) s)

end Sys2Proof.Machine
end

