-- ==== Sys2Proof/Machine/Dispatch.lean ====
section
/-! DEFINITION. One arm per row of the opcode table. -/
namespace Sys2Proof.Machine

def exec (i : Instr) (s : State) : Host.Outcome State Fault Refusal :=
  match i with
  | .rdreg n => Sys2Proof.Machine.execRdreg n s
  | .crcClr => Sys2Proof.Machine.execCrcClr s
  | .crcUpd b => Sys2Proof.Machine.execCrcUpd b s
  | .txpClr => Sys2Proof.Machine.execTxpClr s
  | .txpPush b => Sys2Proof.Machine.execTxpPush b s
  | .encData seq total => Sys2Proof.Machine.execEncData seq total s
  | .encAck seq total => Sys2Proof.Machine.execEncAck seq total s
  | .encNack seq total => Sys2Proof.Machine.execEncNack seq total s
  | .encErr => Sys2Proof.Machine.execEncErr s
  | .txfRd k => Sys2Proof.Machine.execTxfRd k s
  | .readFrame => Sys2Proof.Machine.execReadFrame s
  | .decode => Sys2Proof.Machine.execDecode s
  | .rxbRd k => Sys2Proof.Machine.execRxbRd k s
  | .dataSend checksum seq total body => Sys2Proof.Machine.execDataSend checksum seq total body s
  | .ack checksum seq total => Sys2Proof.Machine.execAck checksum seq total s
  | .nack checksum seq total => Sys2Proof.Machine.execNack checksum seq total s
  | .err checksum seq total => Sys2Proof.Machine.execErr checksum seq total s

end Sys2Proof.Machine
end

