-- ==== Sys2Proof/Machine/Port.lean ====
section
/-! DEFINITION. What the next step is (`00_scope.md` R8; `20_memory.md` R50, R51): the machine's "fetch". There is no program
counter (R24); the next command comes from the host, the next bytes from the channel. RESET overrides everything
(`60_exceptions.md` R204). -/
namespace Sys2Proof.Machine

/-- What the next step does. -/
inductive Turn where
  /-- Nothing: no agent has anything to offer. -/
  | wait
  /-- An event without an encoding (R75) takes the machine to this state. -/
  | event (s : State)
  /-- A command transaction is at the port; `s` is the state with it taken from where it came. -/
  | command (bytes : List Byte) (s : State)
  /-- The channel's read returns bytes; `s` is the state with them taken from where they came. -/
  | burst (bytes : List Byte) (s : State)
deriving DecidableEq, Repr

/-- The next thing an agent outside does, when neither a held command nor bytes in the channel come first. -/
def nextInput (s : State) : Turn :=
  match s.inputs with
  | [] => .wait
  | .command bytes :: rest => .command bytes { s with inputs := rest }
  | .rxBurst bytes :: rest => .burst bytes { s with inputs := rest }
  | .rxTimeout :: rest => .event (rxTimeout { s with inputs := rest })
  | .reset :: rest => .event (resetBlock { s with inputs := rest })

/-- Inside a read the channel's oldest bytes come first (R40: "consumes from its head"). -/
def busyTurn (s : State) : Turn :=
  match s.chan with
  | bytes :: rest => .burst bytes { s with chan := rest }
  | [] => nextInput s

/-- Outside a read the oldest held command comes first (R143 "it runs when the read has ended", R50). -/
def idleTurn (s : State) : Turn :=
  match s.held with
  | bytes :: rest => .command bytes { s with held := rest }
  | [] => nextInput s

/-- A RESET or a timeout that is next acts at once; then what waits in the channel or at the port; then the next input. -/
def nextTurn (s : State) : Turn :=
  match s.inputs with
  | .reset :: _ => nextInput s
  | .rxTimeout :: _ => nextInput s
  | _ => if s.rdPhase = .idle then idleTurn s else busyTurn s

/-- The state in which the very next step runs the command with these bytes: the block idle, nothing held, the command
next at the port. -/
def placeCommand (bytes : List Byte) (s : State) : State :=
  { s with rdPhase := .idle, held := [], inputs := .command bytes :: s.inputs }

/-- The state in which the very next step receives these bytes: a read in progress (one is started where none is), the
channel empty, the bytes next to arrive. -/
def placeBurst (bytes : List Byte) (s : State) : State :=
  { (if s.rdPhase = .idle then beginRead s else s) with chan := [], inputs := .rxBurst bytes :: s.inputs }

/-- The state in which the very next step runs the instruction of a table word. -/
def placeTableWord (s : State) (nbits w : Nat) : State :=
  match tableSpace nbits with
  | .command => placeCommand (tableWordBytes nbits w) s
  | .wireFrame => placeBurst (tableWordBytes nbits w) s

end Sys2Proof.Machine
end

