-- ==== Sys2Proof/Machine/Step.lean ====
section
/-! DEFINITION. One step of the machine (`00_scope.md` R8, `20_memory.md` R48): one command, one channel event, or RESET. -/
namespace Sys2Proof.Machine

/-- A command or a whole frame runs as its instruction; a transaction that is no command is malformed (R161); bytes that are
no whole frame are received as they are (R55). With nothing to do the machine waits: no command, or no event of the
channel, has come yet (R144, R236). -/
def step (s : State) : Host.Outcome State Fault Refusal :=
  match nextTurn s with
  | .wait => .next s
  | .event t => .next t
  | .command bytes t =>
    match decodeCommand bytes with
    | .ok i => exec i t
    | .error _ => .next (malformed bytes t)
  | .burst bytes t =>
    match decodeFrame bytes with
    | .ok i => exec i t
    | .error _ => .next (receive bytes t)

/-- The state with the instruction of a table word where the next step takes its instruction from (`placeTableWord`). -/
def State.withFetchWord (s : State) (nbits w : Nat) : State := placeTableWord s nbits w

end Sys2Proof.Machine
end

