-- ==== Sys2Proof/Machine/Pseudo.lean ====
section
/-! DEFINITION. The pseudo-operations of `30_encoding.md` R77: each source function as the commands it expands to, issued by a host
to an idle block, each command after the response of the one before (R50). A function's value is what the host makes of the
responses; beside it stands the state its commands leave. -/
namespace Sys2Proof.Machine

/-- What follows an outcome, where there is a next state. -/
def andThen {α β : Type} (o : Host.Outcome α Fault Refusal) (f : α → Host.Outcome β Fault Refusal) :
    Host.Outcome β Fault Refusal :=
  match o with
  | .next a => f a
  | .fault r => .fault r
  | .refused r => .refused r

@[simp] theorem andThen_next {α β : Type} (a : α) (f : α → Host.Outcome β Fault Refusal) :
    andThen (.next a) f = f a := rfl

/-- The commands run one after another. -/
def runCommands : List Instr → State → Host.Outcome State Fault Refusal
  | [], s => .next s
  | i :: rest, s => andThen (exec i s) (runCommands rest)

/-- `resp(X)` (R77): the command's response, for a command of an idle block that returns one. -/
def response (i : Instr) (s : State) : Host.Outcome (Word × State) Fault Refusal :=
  andThen (exec i s) fun t => .next (t.resp.getD 0, t)

/-- The bytes `resp(X a), ..., resp(X (a+n-1))` of an indexed read `X` (`TXF_RD`, `RXB_RD`). -/
def readBytes (read : Word → Instr) : Nat → Nat → State → Host.Outcome (List Byte × State) Fault Refusal
  | _, 0, s => .next ([], s)
  | a, n + 1, s =>
    andThen (response (read (BitVec.ofNat 16 a)) s) fun first =>
      andThen (readBytes read (a + 1) n first.2) fun others =>
        .next (first.1.setWidth 8 :: others.1, others.2)

/-- `CRC_RD` (R77, R94). -/
def crcRd : List Instr := [.rdreg 1]

/-- The commands of `checksum(bs)` (R77). -/
def checksumProgram (bs : List Byte) : List Instr := .crcClr :: bs.map .crcUpd ++ crcRd

/-- `checksum(bs)` (R77): the response of its last command. -/
def checksumCall (bs : List Byte) (s : State) : Host.Outcome (Word × State) Fault Refusal :=
  andThen (runCommands (checksumProgram bs) s) fun t => .next (t.resp.getD 0, t)

/-- `frame()` (R77): `n = resp(RDREG 3)`, then the `n` bytes. -/
def frameCall (s : State) : Host.Outcome (List Byte × State) Fault Refusal :=
  andThen (response (.rdreg 3) s) fun n => readBytes .txfRd 0 n.1.toNat n.2

/-- The commands of `encode_data(payload, s, t)` before its `frame()` (R77). -/
def encodeDataProgram (p : List Byte) (s t : Word) : List Instr := .txpClr :: p.map .txpPush ++ [.encData s t]

/-- `encode_data(payload, s, t)` (R77). -/
def encodeDataCall (p : List Byte) (q w : Word) (s : State) : Host.Outcome (List Byte × State) Fault Refusal :=
  andThen (runCommands (encodeDataProgram p q w) s) frameCall

/-- `encode_ack(s, t)` (R77). -/
def encodeAckCall (q w : Word) (s : State) : Host.Outcome (List Byte × State) Fault Refusal :=
  andThen (exec (.encAck q w) s) frameCall

/-- `encode_nack(s, t)` (R77). -/
def encodeNackCall (q w : Word) (s : State) : Host.Outcome (List Byte × State) Fault Refusal :=
  andThen (exec (.encNack q w) s) frameCall

/-- `encode_err()` (R77). -/
def encodeErrCall (s : State) : Host.Outcome (List Byte × State) Fault Refusal := andThen (exec .encErr s) frameCall

/-- At most `n` steps, until the read has ended: its response, or `none` where there is none (still pending, or RESET, R221). -/
def awaitRead : Nat → State → Host.Outcome (Option Word × State) Fault Refusal
  | 0, s => .next (if s.rdPhase = .idle then s.resp else none, s)
  | n + 1, s => if s.rdPhase = .idle then .next (s.resp, s) else andThen (step s) (awaitRead n)

/-- `read_frame(channel, poll_timeout)` (R77): `READ_FRAME`, and its response, awaited for at most `n` steps. What the channel
does meanwhile is in the state (`chan`, `inputs`). -/
def readFrameCall (n : Nat) (s : State) : Host.Outcome (Option Word × State) Fault Refusal :=
  andThen (exec .readFrame s) (awaitRead n)

/-- `Frame{...}` from the registers 5 to 8 and the payload's bytes (R77). -/
def frameRecord (s : State) : Host.Outcome (Frame × State) Fault Refusal :=
  andThen (response (.rdreg 5) s) fun kind =>
  andThen (response (.rdreg 6) kind.2) fun sequence =>
  andThen (response (.rdreg 7) sequence.2) fun total =>
  andThen (response (.rdreg 8) total.2) fun length =>
  andThen (readBytes .rxbRd Config.hdr length.1.toNat length.2) fun payload =>
    .next ({ kind := kind.1.setWidth 8, sequence := sequence.1, total := total.1, length := length.1,
             payload := payload.1 }, payload.2)

/-- `decode_and_verify(rxb, byte_count)` (R77): response 0 of `DECODE` is `Invalid` (`none`), response 1 a frame. -/
def decodeCall (s : State) : Host.Outcome (Option Frame × State) Fault Refusal :=
  andThen (response .decode s) fun result =>
    if result.1 = 0 then .next (none, result.2)
    else andThen (frameRecord result.2) fun frame => .next (some frame.1, frame.2)

end Sys2Proof.Machine
end

