-- ==== Sys2Proof/Machine/Transfer.lean ====
section
/-! DEFINITION. The host agent of `45_host_transfer_engine.md`, which is "not hardware" (its session state is no state of the
block, R25 (d)): the sender's and the receiver's decisions as plain functions from one reply to the next session state. What
they are given (`Option Frame`) is the result of `decode_and_verify`, `none` for `Invalid` (R175); the frames they send are the
block's `frameBytes`. The readings of D24 (no kind test at the receiver), D28 and D30 are followed. -/
namespace Sys2Proof.Machine

/-- `total_chunks = ceil(N / C)` with `C = MAXP` (R172). -/
def totalChunks (n : Nat) : Nat := (n + Config.maxp - 1) / Config.maxp

/-- Chunk `i` of the buffer (R172). -/
def chunk (buffer : List Byte) (i : Nat) : List Byte := (buffer.drop (i * Config.maxp)).take Config.maxp

/-- Where the sender stands in its loop (R173). -/
inductive SenderPhase where
  /-- About to write the outstanding frame (a). -/
  | write
  /-- Waiting for the reply (b). -/
  | await
  /-- Every chunk acknowledged (R178). -/
  | success
  /-- An irrecoverable reply (f). -/
  | failure
deriving DecidableEq, Repr

/-- The sender's session state (R171): the buffer it was given, `chunk_index`, and where it stands. `total_chunks` and
`outstanding_frame` are computed from these. -/
structure Sender where
  buffer : List Byte
  chunkIndex : Nat
  phase : SenderPhase
deriving DecidableEq, Repr

/-- `send(channel, buffer)` begins (R173); an empty buffer and one of more than 65535 chunks have no meaning (U1, U2). -/
def senderStart (buffer : List Byte) : Option Sender :=
  if buffer = [] ∨ 65535 < totalChunks buffer.length then none
  else some { buffer, chunkIndex := 0, phase := .write }

/-- `outstanding_frame` (R171, R173): the current chunk as a `DataSend` frame. -/
def outstanding (x : Sender) : List Byte :=
  frameBytes Config.kData (BitVec.ofNat 16 x.chunkIndex) (BitVec.ofNat 16 (totalChunks x.buffer.length))
    (chunk x.buffer x.chunkIndex)

/-- Step (a) (R174): the channel accepted `w` bytes; a short write goes straight back to the write of the whole frame. -/
def senderWrote (w : Nat) (x : Sender) : Sender :=
  if x.phase = .write ∧ (outstanding x).length ≤ w then { x with phase := .await } else x

/-- An acknowledged chunk: the next one, or success after the last (R175 (d), R178). -/
def senderAdvance (x : Sender) : Sender :=
  if x.chunkIndex + 1 < totalChunks x.buffer.length then
    { x with chunkIndex := x.chunkIndex + 1, phase := .write }
  else { x with phase := .success }

/-- Steps (c) to (f) (R175, R176); the reply's sequence and total are not looked at (R177). -/
def senderReply (r : Option Frame) (x : Sender) : Sender :=
  if x.phase = .await then
    match r with
    | none => { x with phase := .write }
    | some f =>
      if f.kind = Config.kAck then senderAdvance x
      else if f.kind = Config.kNack then { x with phase := .write }
      else { x with phase := .failure }
  else x

/-- The receiver's session state (R171): `total` unknown is `none` (D28). -/
structure Receiver where
  expected : Nat
  total : Option Word
  out : List Byte
deriving DecidableEq, Repr

/-- `receive` begins (R179). -/
def receiverStart : Receiver := { expected := 0, total := none, out := [] }

/-- The loop's end test (R179): an unknown total never equals `expected`. -/
def receiverDone (x : Receiver) : Bool :=
  match x.total with
  | none => false
  | some t => x.expected == t.toNat

/-- The total as sent, 0 while it is unknown (R180). -/
def totalOnWire (total : Option Word) : Word := total.getD 0

/-- `Nack(expected, total)` as bytes (R179). -/
def nackFrame (x : Receiver) : List Byte :=
  frameBytes Config.kNack (BitVec.ofNat 16 x.expected) (totalOnWire x.total) []

/-- `Ack(sequence, total)` as bytes (R179), with the session's total. -/
def ackFrame (sequence : Word) (x : Receiver) : List Byte :=
  frameBytes Config.kAck sequence (totalOnWire x.total) []

/-- A session's total is fixed by the first valid frame and never changes (R179 step 3). -/
def fixTotal (f : Frame) (x : Receiver) : Receiver :=
  match x.total with
  | none => { x with total := some f.total }
  | some _ => x

/-- Steps 4 to 7 of R179, the total fixed. -/
def receiverFrame (f : Frame) (x : Receiver) : Receiver × List Byte :=
  if x.expected < f.sequence.toNat then (x, nackFrame x)
  else if f.sequence.toNat = x.expected then
    ({ x with expected := x.expected + 1, out := x.out ++ f.payload }, ackFrame f.sequence x)
  else (x, ackFrame f.sequence x)

/-- One pass of the receiver's loop body (R179): the new session state and the frame it sends. DESIGN CHOICE (log entry 12; the
spec is silent, N26, and U15 asks for it): `send_frame` is all-or-nothing, so the reply has left whole whatever the channel's
`write` returned, and the session goes on from there. No kind test is made (R181, D24; log entry 11). -/
def receiverPass (r : Option Frame) (x : Receiver) : Receiver × List Byte :=
  match r with
  | none => (x, nackFrame x)
  | some f => receiverFrame f (fixTotal f x)

/-- The receiver's loop, one turn (R179): its test first; a session that is done reads nothing and sends nothing more. The write of
the reply is all-or-nothing, the model's own choice (`receiverPass`, log entry 12). -/
def receiverReply (r : Option Frame) (x : Receiver) : Receiver × Option (List Byte) :=
  if receiverDone x then (x, none) else ((receiverPass r x).1, some (receiverPass r x).2)

/-- What `receive` returns, once its loop has ended (R180: "Terminates and returns the assembled buffer once `expected ==
total`"). -/
def receiverResult (x : Receiver) : Option (List Byte) := if receiverDone x then some x.out else none

/-- The receiver's loop over the results of its reads (R179): the frames it sends, in order, and what it returns; `none` where
these reads leave it in the loop. -/
def receiverLoop : List (Option Frame) → Receiver → List (List Byte) × Option (List Byte)
  | [], x => ([], receiverResult x)
  | r :: rest, x =>
    match receiverReply r x with
    | (y, none) => ([], receiverResult y)
    | (y, some sent) => (sent :: (receiverLoop rest y).1, (receiverLoop rest y).2)

/-- `receive(channel, max_size)` (R179), given the results of its reads; `max_size` is not used (U15, log entry 11). -/
def receiveTransfer (reads : List (Option Frame)) : List (List Byte) × Option (List Byte) := receiverLoop reads receiverStart

/-- Chunk `i` as the valid `DataSend` frame the receiver decodes it to (R172, R173). -/
def chunkFrame (buffer : List Byte) (i : Nat) : Frame where
  kind := Config.kData
  sequence := BitVec.ofNat 16 i
  total := BitVec.ofNat 16 (totalChunks buffer.length)
  length := BitVec.ofNat 16 (chunk buffer i).length
  payload := chunk buffer i

end Sys2Proof.Machine
end

