-- ==== Sys2Proof/Safety.lean ====
section
/-! DEFINITION. What claims are stated in: the invariant of `10_state.md` R27, the view of a state that leaves out the bytes no
rule reads (R12 to R14, R26), when a run has ended (R236), and the delivery of a series of bursts. -/
namespace Sys2Proof.Machine

/-- Every buffer is in canonical form and inside its space (`20_memory.md` R40). -/
structure BuffersWf (s : State) : Prop where
  txp : Memory.wf s.txp = true ∧ memWithin Config.maxp s.txp = true
  txf : Memory.wf s.txf = true ∧ memWithin Config.txfcap s.txf = true
  rxb : Memory.wf s.rxb = true ∧ memWithin Config.rxcap s.rxb = true

/-- The frame registers and `rx_valid` describe the buffer (R27, R17, R18). -/
structure DecodedValid (s : State) : Prop where
  idle : s.rdPhase = .idle
  header : 9 ≤ s.rxCount.val
  count : s.rxCount.val = 9 + s.rxLen.toNat
  kind : s.rxKind = memRead s.rxb 2
  seq : s.rxSeq = memField16 s.rxb 3
  total : s.rxTotal = memField16 s.rxb 5
  length : s.rxLen = memField16 s.rxb 7
  checksum : crc16 (memSlice s.rxb 2 (s.rxCount.val - 2)) = memField16 s.rxb 0

/-- R27, clause by clause; the bounds on the counters are in their types. -/
structure BlockInv (s : State) : Prop where
  txFlen : s.txFlen.val = 0 ∨ 9 ≤ s.txFlen.val
  rxNeed : 9 ≤ s.rxNeed.val
  hdr : s.rdPhase = .hdr → s.rxCount.val < 9 ∧ s.rxNeed.val = 9
  pay : s.rdPhase = .pay → 9 ≤ s.rxCount.val ∧ s.rxCount.val < s.rxNeed.val ∧ memRead s.rxb 2 = 0x01 ∧
    s.rxNeed.val = 9 + (memField16 s.rxb 7).toNat
  valid : s.rxValid = true → DecodedValid s
  invalid : s.rxValid = false → s.rxKind = 0 ∧ s.rxSeq = 0 ∧ s.rxTotal = 0 ∧ s.rxLen = 0
  frame : 0 < s.txFlen.val → memField16 s.txf 0 = crc16 (memSlice s.txf 2 (s.txFlen.val - 2)) ∧
    s.txFlen.val = 9 + (memField16 s.txf 7).toNat

/-- Two states that differ in nothing but buffer bytes at or beyond the counts, which no rule reads (R12, R14, R26). -/
structure SameView (s t : State) : Prop where
  txp : ∀ a, a < s.txPlen.val → memRead s.txp a = memRead t.txp a
  txf : ∀ a, a < s.txFlen.val → memRead s.txf a = memRead t.txf a
  rxb : ∀ a, a < s.rxCount.val → memRead s.rxb a = memRead t.rxb a
  rest : { s with txp := [], txf := [], rxb := [] } = { t with txp := [], txf := [], rxb := [] }

/-- A run has ended (R236): no read pending, no command held, and no command of the host to come. What the channel and the platform
still do is not asked. -/
def RunEnded (s : State) : Prop := s.rdPhase = .idle ∧ s.held = [] ∧ ∀ bytes, .command bytes ∉ s.inputs

/-- A read has just started: phase HDR, nothing accumulated (R136). -/
def ReadStarted (s : State) : Prop := s.rdPhase = .hdr ∧ s.rxCount.val = 0 ∧ s.rxNeed.val = 9

/-- A series of bursts is delivered, one accumulation step each (R147). -/
def deliver (bursts : List (List Byte)) (s : State) : State := bursts.foldl (fun s bs => receive bs s) s

/-- Neither RESET nor a timeout is what comes next. -/
def Uninterrupted (s : State) : Prop := (∀ rest, s.inputs ≠ .reset :: rest) ∧ (∀ rest, s.inputs ≠ .rxTimeout :: rest)

/-- These bytes are what comes next, within the bounds R137 puts on a burst, and nothing waits in the channel before them. -/
structure ArrivesNext (bs : List Byte) (rest : List Input) (s : State) : Prop where
  busy : s.rdPhase ≠ .idle
  chan : s.chan = []
  inputs : s.inputs = .rxBurst bs :: rest
  nonempty : bs ≠ []
  fits : bs.length ≤ Config.rxcap - s.rxCount.val

/-- Everything but the Message Reader's buffer, counters, phase and response is as it was. -/
def OnlyReaderChanged (s t : State) : Prop :=
  { t with rxb := s.rxb, rxCount := s.rxCount, rxNeed := s.rxNeed, rdPhase := s.rdPhase, resp := s.resp } = s

/-- A transaction of at least one byte that is refused when it runs (R161 (a) to (e)): an undefined code, a byte count that does not match, a
register number above 10, an index at or beyond the buffer's count. -/
def RefusedAt (bs : List Byte) (s : State) : Prop :=
  (bs ≠ [] ∧ ∃ e, decodeCommand bs = .error e) ∨
  (∃ n : Byte, decodeCommand bs = .ok (.rdreg n) ∧ 10 < n.toNat) ∨
  (∃ i : Word, decodeCommand bs = .ok (.txfRd i) ∧ s.txFlen.val ≤ i.toNat) ∨
  (∃ i : Word, decodeCommand bs = .ok (.rxbRd i) ∧ s.rxCount.val ≤ i.toNat)

end Sys2Proof.Machine
end

