-- ==== Sys2Proof/Certificates/Slice0/Obligations.lean ====
section
/-! DEFINITION. The statements for the provers. Each docstring names the rule of the spec it formalises. `resp := none` is the
model's form of "Response: none" (R162). -/
open Sys2Proof Sys2Proof.Machine

/-! Encodings -/

/-- R61, R73: every well-formed instruction, command or wire frame, is decoded from its own bytes, every operand at every value. -/
def Obligations.DecodeInvertsEncode : Prop :=
  ∀ i : Instr, wellFormed i = true → decode i.space (encode i) = .ok i

/-- R61, R73: bytes that decode are exactly the encoding of what they decode to, so no two byte strings share a meaning. -/
def Obligations.EncodeInvertsDecode : Prop :=
  ∀ (sp : Space) (bs : List Byte) (i : Instr), decode sp bs = .ok i →
    i.space = sp ∧ encode i = bs ∧ wellFormed i = true

/-- R73, R61: one word of each family, written out from the tables. -/
def Obligations.TabledWordsDecode : Prop :=
  decodeCommand [0x02, 0x0A] = .ok (.rdreg 10) ∧
  decodeCommand [0x11, 0x31] = .ok (.crcUpd 0x31) ∧
  decodeCommand [0x22, 0x01, 0x02, 0x03, 0x04] = .ok (.encData 0x0102 0x0304) ∧
  decodeCommand [0x26, 0x00, 0x0A] = .ok (.txfRd 10) ∧
  decodeCommand [0x30] = .ok .readFrame ∧
  decodeCommand [0x32, 0x01, 0x00] = .ok (.rxbRd 256) ∧
  decodeFrame [0x39, 0xB3, 0x02, 0x00, 0x00, 0x00, 0x03, 0x00, 0x00] = .ok (.ack 0x39B3 0 3) ∧
  decodeFrame [0x56, 0xF8, 0x01, 0x00, 0x00, 0x00, 0x01, 0x00, 0x02, 0x48, 0x69] =
    .ok (.dataSend 0x56F8 0 1 [0x48, 0x69])

/-- R74: an undefined code, whatever bytes follow it, sets `cmd_err`, answers 0x0000 and changes nothing else; the listed codes
are the ones that do. -/
def Obligations.UndefinedCodesAreRefused : Prop :=
  (∀ (c : Byte) (ops : List Byte),
    (c = 0x00 ∨ c = 0x01 ∨ (0x03 ≤ c ∧ c ≤ 0x0F) ∨ (0x12 ≤ c ∧ c ≤ 0x1F) ∨ (0x27 ≤ c ∧ c ≤ 0x2F) ∨ 0x33 ≤ c) ↔
      decodeCommand (c :: ops) = .error (.undefinedCode c)) ∧
  (∀ (c : Byte) (ops : List Byte) (s : State) (rest : List Input),
    decodeCommand (c :: ops) = .error (.undefinedCode c) →
    s.rdPhase = .idle → s.held = [] → s.inputs = .command (c :: ops) :: rest →
    step s = .next { s with inputs := rest, cmdErr := true, resp := some 0x0000 })

/-- R161 (with R72, R20): a refused command at the ready port sets `cmd_err`, answers 0x0000 and changes nothing else, and
`cmd_err` stays 1 in every step but RESET; while the block is busy no transaction is refused. (A transaction of no bytes at all,
which the spec does not describe, is not among them: log entry 7.) -/
def Obligations.RefusedCommandsOnlySetCmdErr : Prop :=
  (∀ (bs : List Byte) (s : State) (rest : List Input),
    s.rdPhase = .idle → s.held = [] → s.inputs = .command bs :: rest → RefusedAt bs s →
    step s = .next { s with inputs := rest, cmdErr := true, resp := some 0x0000 }) ∧
  (∀ s t : State, step s = .next t → (∀ rest, s.inputs ≠ .reset :: rest) → s.cmdErr = true → t.cmdErr = true) ∧
  (∀ (bs : List Byte) (s t : State) (rest : List Input),
    s.rdPhase ≠ .idle → s.chan = [] → s.inputs = .command bs :: rest → step s = .next t → t.cmdErr = s.cmdErr)

/-! Steps -/

/-- The step around an instruction: a transaction that decodes runs as its instruction, on the state with the transaction taken
from the outside (port ready with nothing held, or block busy with nothing in the channel) or from the held ones. Which of them comes
first is the model's choice: its order of inputs, held commands and channel (log entry 5), the oldest of several held ones
(log entry 3). -/
def Obligations.StepRunsTheDecodedCommand : Prop :=
  ∀ (s : State) (bs : List Byte) (i : Instr), decodeCommand bs = .ok i →
    (∀ rest, s.inputs = .command bs :: rest →
      ((s.rdPhase = .idle ∧ s.held = []) ∨ (s.rdPhase ≠ .idle ∧ s.chan = [])) →
      step s = exec i { s with inputs := rest }) ∧
    (∀ waiting, s.held = bs :: waiting → s.rdPhase = .idle → Uninterrupted s →
      step s = exec i { s with held := waiting })

/-- The step around a wire frame: bytes that decode to a frame run as that frame's arrival, from the outside or from the head of
the channel. That a frame is an instruction (log entry 6) and the order of inputs, held commands and channel (log entry 5) are the
model's. -/
def Obligations.StepRunsTheDecodedFrame : Prop :=
  ∀ (s : State) (bs : List Byte) (i : Instr), decodeFrame bs = .ok i →
    (∀ rest, s.inputs = .rxBurst bs :: rest →
      ((s.rdPhase = .idle ∧ s.held = []) ∨ (s.rdPhase ≠ .idle ∧ s.chan = [])) →
      step s = exec i { s with inputs := rest }) ∧
    (∀ later, s.chan = bs :: later → s.rdPhase ≠ .idle → Uninterrupted s →
      step s = exec i { s with chan := later })

/-- A table word the decoder accepts, placed by `withFetchWord`, is what the very next step runs, on the prepared state without it. -/
def Obligations.PlacedWordRunsNext : Prop :=
  ∀ (s : State) (nbits w : Nat) (i : Instr), decodeTableWord nbits w = some i →
    step (s.withFetchWord nbits w) = exec i { s.withFetchWord nbits w with inputs := s.inputs }

/-- R200, R161: no step of the machine stops; every exceptional outcome is a value or a flag in a next state. -/
def Obligations.NoStepStops : Prop :=
  ∀ s : State, ∃ t, step s = .next t

/-- R143: every command issued while a read is in progress is held with no other effect, whether or not its bytes are a command of
the table; and it runs when the read has ended, where one that is no command is refused (R161). The model's choices in it: several
held ones are kept and run in the order issued (log entry 3), and a held transaction of no bytes is refused too (log entry 7). -/
def Obligations.BusyBlockHoldsCommands : Prop :=
  (∀ (i : Instr) (s : State), i.space = .command → s.rdPhase ≠ .idle →
    exec i s = .next { s with held := s.held ++ [encode i] }) ∧
  (∀ (bs : List Byte) (s : State) (rest : List Input),
    s.rdPhase ≠ .idle → s.chan = [] → s.inputs = .command bs :: rest →
    step s = .next { s with inputs := rest, held := s.held ++ [bs] }) ∧
  (∀ (bs : List Byte) (s : State) (later : List (List Byte)),
    s.rdPhase = .idle → s.held = bs :: later → Uninterrupted s →
    (∀ i, decodeCommand bs = .ok i → step s = exec i { s with held := later }) ∧
    ((∃ e, decodeCommand bs = .error e) →
      step s = .next { s with held := later, cmdErr := true, resp := some 0x0000 }))

/-- R236: where nothing is pending, held or to come, a step changes nothing; a run that has ended stays ended whatever the channel
and the platform do, and but for RESET nothing of the block changes then. A busy block that gets no event waits unchanged: that an
empty list of inputs is such a wait is the model's choice (log entry 5). -/
def Obligations.NothingToDoChangesNothing : Prop :=
  (∀ s : State, RunEnded s → s.inputs = [] → step s = .next s) ∧
  (∀ s t : State, RunEnded s → step s = .next t → RunEnded t ∧
    ((∀ rest, s.inputs ≠ .reset :: rest) → { t with chan := s.chan, inputs := s.inputs } = s)) ∧
  (∀ s : State, s.rdPhase ≠ .idle → s.chan = [] → s.inputs = [] → step s = .next s)

/-- R220, R221: RESET in every state, busy or idle: the values of R26, no response, nothing held, the channel and what comes next
untouched; and no buffer byte is readable afterwards. -/
def Obligations.ResetRestoresTheBlock : Prop :=
  ∀ (s : State) (rest : List Input), s.inputs = .reset :: rest →
    ∃ t, step s = .next t ∧
      t.crc = 0x0000 ∧ t.txPlen.val = 0 ∧ t.txFlen.val = 0 ∧ t.rxCount.val = 0 ∧ t.rxNeed.val = 9 ∧
      t.rdPhase = .idle ∧ t.rxValid = false ∧ t.rxKind = 0 ∧ t.rxSeq = 0 ∧ t.rxTotal = 0 ∧ t.rxLen = 0 ∧
      t.txOvf = false ∧ t.cmdErr = false ∧ t.resp = none ∧ t.held = [] ∧ t.chan = s.chan ∧ t.inputs = rest ∧
      (∀ i : Word, exec (.txfRd i) t = .next { t with cmdErr := true, resp := some 0 } ∧
        exec (.rxbRd i) t = .next { t with cmdErr := true, resp := some 0 })

/-- R140: a timeout during a read discards what was accumulated, answers 0, ends the read and changes nothing else; afterwards no
byte of the buffer can be read and DECODE answers 0. -/
def Obligations.TimeoutAbortsTheRead : Prop :=
  ∀ (s : State) (rest : List Input), s.rdPhase ≠ .idle → s.inputs = .rxTimeout :: rest →
    ∃ t, step s = .next t ∧
      t.rxCount.val = 0 ∧ t.rxNeed.val = 9 ∧ t.rdPhase = .idle ∧ t.resp = some 0 ∧ t.rxb = s.rxb ∧
      OnlyReaderChanged { s with inputs := rest } t ∧
      (∀ i : Word, exec (.rxbRd i) t = .next { t with cmdErr := true, resp := some 0 }) ∧
      (∃ u, exec .decode t = .next u ∧ u.resp = some 0 ∧ u.rxValid = false)

/-! Checksum unit -/

/-- R90: the byte XORed into the high half, then 8 times: a left shift, and the XOR with 0x1021 where the bit shifted out was
set; with the rule's two worked values. -/
def Obligations.CrcUpdateIsEightShifts : Prop :=
  (∀ (c : Word) (b : Byte), crcUpdate c b =
    (fun c : Word => if c.msb then (c <<< 1) ^^^ 0x1021 else c <<< 1)^[8] (c ^^^ (b.setWidth 16 <<< 8))) ∧
  crcUpdate 0x0000 0x01 = 0x1021 ∧ crcUpdate 0x0000 0x80 = 0x9188

/-- R91: the sum of no bytes is 0x0000, and each further byte is one update. -/
def Obligations.ChecksumFoldsOverTheBytes : Prop :=
  crc16 [] = 0x0000 ∧ ∀ (bs : List Byte) (b : Byte), crc16 (bs ++ [b]) = crcUpdate (crc16 bs) b

/-- R90's polynomial reading: the checksum is the remainder of the message, shifted by 16, on division by
x^16 + x^12 + x^5 + 1 over GF(2). -/
def Obligations.ChecksumIsPolynomialRemainder : Prop :=
  ∀ bs : List Byte,
    (Polynomial.X ^ 16 + Polynomial.X ^ 12 + Polynomial.X ^ 5 + 1 : Polynomial (ZMod 2)) ∣
      bs.foldl (fun m b => m * Polynomial.X ^ 8 +
          ∑ k ∈ Finset.range 8, if b.getLsbD k then Polynomial.X ^ k else 0) 0 * Polynomial.X ^ 16 +
        ∑ k ∈ Finset.range 16, if (crc16 bs).getLsbD k then Polynomial.X ^ k else 0

/-- R92. -/
def Obligations.CrcClrZeroesTheAccumulator : Prop :=
  decodeCommand [0x10] = .ok .crcClr ∧
  ∀ s : State, s.rdPhase = .idle → exec .crcClr s = .next { s with crc := 0x0000, resp := none }

/-- R93, with its corner case and its example. -/
def Obligations.CrcUpdAddsOneByte : Prop :=
  (∀ b : Byte, decodeCommand [0x11, b] = .ok (.crcUpd b)) ∧
  (∀ (b : Byte) (s : State), s.rdPhase = .idle →
    exec (.crcUpd b) s = .next { s with crc := crcUpdate s.crc b, resp := none }) ∧
  crcUpdate 0x0000 0x00 = 0x0000 ∧ crcUpdate 0x0000 0x31 = 0x2672

/-- R95 (c): for byte ranges of equal length the checksum of the XOR is the XOR of the checksums. -/
def Obligations.ChecksumIsLinear : Prop :=
  ∀ a b : List Byte, a.length = b.length → crc16 (List.zipWith (· ^^^ ·) a b) = crc16 a ^^^ crc16 b

/-- R95 (b): any change of one byte, or of two adjacent bytes, changes the checksum; in particular one flipped bit does. -/
def Obligations.ChecksumSeesEveryShortChange : Prop :=
  (∀ (before after : List Byte) (x y : Byte), x ≠ y → crc16 (before ++ x :: after) ≠ crc16 (before ++ y :: after)) ∧
  (∀ (before after : List Byte) (x x' y y' : Byte), (x, x') ≠ (y, y') →
    crc16 (before ++ x :: x' :: after) ≠ crc16 (before ++ y :: y' :: after))

/-- R95 (d), (e): leading zero bytes are invisible, and a range followed by its own checksum sums to zero. -/
def Obligations.ChecksumLeadingZerosAndResidue : Prop :=
  (∀ bs : List Byte, crc16 (0x00 :: bs) = crc16 bs) ∧ (∀ bs : List Byte, crc16 (bs ++ be16 (crc16 bs)) = 0x0000)

/-- R94 (and R77): `CRC_RD` answers the accumulator and changes nothing else; after `CRC_CLR` and one `CRC_UPD` per byte it answers
the checksum of the bytes, whatever the accumulator held before, and more bytes may be added after it; with R94's example. -/
def Obligations.ChecksumProgramComputesCrc16 : Prop :=
  (∀ s : State, s.rdPhase = .idle → runCommands crcRd s = .next { s with resp := some s.crc }) ∧
  (∀ (bs : List Byte) (s : State), s.rdPhase = .idle →
    runCommands (checksumProgram bs) s = .next { s with crc := crc16 bs, resp := some (crc16 bs) }) ∧
  (∀ (bs more : List Byte) (s : State), s.rdPhase = .idle →
    runCommands (checksumProgram bs ++ more.map .crcUpd ++ crcRd) s =
      .next { s with crc := crc16 (bs ++ more), resp := some (crc16 (bs ++ more)) }) ∧
  crc16 [0x31, 0x32, 0x33, 0x34, 0x35, 0x36, 0x37, 0x38, 0x39] = 0x31C3

/-- R11: `crc` is changed only by CRC_CLR, CRC_UPD and RESET; the codec and the reader never touch it. -/
def Obligations.OnlyChecksumCommandsWriteCrc : Prop :=
  (∀ (i : Instr) (s t : State), exec i s = .next t → i ≠ .crcClr → (∀ b, i ≠ .crcUpd b) → t.crc = s.crc) ∧
  (∀ s t : State, step s = .next t → t.crc ≠ s.crc →
    (∃ rest, s.inputs = .reset :: rest) ∨
    (∃ (bs : List Byte) (i : Instr) (u : State), nextTurn s = .command bs u ∧ decodeCommand bs = .ok i ∧
      (i = .crcClr ∨ ∃ b, i = .crcUpd b)))

/-! Encoder -/

/-- R101. -/
def Obligations.TxpClrEmptiesThePayload : Prop :=
  decodeCommand [0x20] = .ok .txpClr ∧
  ∀ s : State, s.rdPhase = .idle → exec .txpClr s = .next { s with txPlen := 0, resp := none }

/-- R102: below MAXP the byte is stored at index `tx_plen` and no other byte of any buffer changes; at MAXP it is dropped and
`tx_ovf` is set. -/
def Obligations.TxpPushAppendsOrOverflows : Prop :=
  (∀ b : Byte, decodeCommand [0x21, b] = .ok (.txpPush b)) ∧
  (∀ (b : Byte) (s : State), s.rdPhase = .idle → Memory.wf s.txp = true → s.txPlen.val < 20 →
    ∃ t, exec (.txpPush b) s = .next t ∧ memRead t.txp s.txPlen.val = b ∧ t.txPlen.val = s.txPlen.val + 1 ∧
      (∀ a, a ≠ s.txPlen.val → memRead t.txp a = memRead s.txp a) ∧
      { t with txp := s.txp, txPlen := s.txPlen } = { s with resp := none }) ∧
  (∀ (b : Byte) (s : State), s.rdPhase = .idle → s.txPlen.val = 20 →
    exec (.txpPush b) s = .next { s with txOvf := true, resp := none })

/-- R103: the DataSend frame of the pushed payload is in `txf`, every byte of `txf` beyond it and every other field unchanged. -/
def Obligations.EncDataStoresTheFrame : Prop :=
  (∀ sh sl th tl : Byte, decodeCommand [0x22, sh, sl, th, tl] = .ok (.encData (be16Join sh sl) (be16Join th tl))) ∧
  ∀ (q w : Word) (s : State), s.rdPhase = .idle → Memory.wf s.txf = true →
    ∃ t, exec (.encData q w) s = .next t ∧ t.txFlen.val = 9 + s.txPlen.val ∧
      memSlice t.txf 0 t.txFlen.val = frameBytes 0x01 q w (memSlice s.txp 0 s.txPlen.val) ∧
      (∀ a, 9 + s.txPlen.val ≤ a → memRead t.txf a = memRead s.txf a) ∧
      { t with txf := s.txf, txFlen := s.txFlen } = { s with resp := none }

/-- R104 to R106: the three control frames, nine bytes each, `Err` with sequence and total 0; every byte of `txf` beyond them and
every other field unchanged. -/
def Obligations.EncControlStoresNineBytes : Prop :=
  (∀ sh sl th tl : Byte,
    decodeCommand [0x23, sh, sl, th, tl] = .ok (.encAck (be16Join sh sl) (be16Join th tl)) ∧
    decodeCommand [0x24, sh, sl, th, tl] = .ok (.encNack (be16Join sh sl) (be16Join th tl)) ∧
    decodeCommand [0x25] = .ok .encErr) ∧
  ∀ (q w : Word) (s : State), s.rdPhase = .idle → Memory.wf s.txf = true →
    ∀ (i : Instr) (frame : List Byte),
      ((i = .encAck q w ∧ frame = frameBytes 0x02 q w []) ∨ (i = .encNack q w ∧ frame = frameBytes 0x03 q w []) ∨
        (i = .encErr ∧ frame = frameBytes 0x04 0x0000 0x0000 [])) →
      ∃ t, exec i s = .next t ∧ t.txFlen.val = 9 ∧ memSlice t.txf 0 9 = frame ∧
        (∀ a, 9 ≤ a → memRead t.txf a = memRead s.txf a) ∧
        { t with txf := s.txf, txFlen := s.txFlen } = { s with resp := none }

/-- R107. -/
def Obligations.TxfRdReadsTheFrame : Prop :=
  (∀ h l : Byte, decodeCommand [0x26, h, l] = .ok (.txfRd (be16Join h l))) ∧
  ∀ (i : Word) (s : State), s.rdPhase = .idle →
    exec (.txfRd i) s = .next (if i.toNat < s.txFlen.val then
      { s with resp := some ((memRead s.txf i.toNat).setWidth 16) }
    else { s with cmdErr := true, resp := some 0x0000 })

/-- R100, R61, R64: where each field stands in a frame, its length, and its checksum over all that follows it. -/
def Obligations.FrameBytesLayout : Prop :=
  ∀ (k : Byte) (q w : Word) (p : List Byte), p.length ≤ 65535 →
    (frameBytes k q w p).length = 9 + p.length ∧
    (frameBytes k q w p).getD 2 0 = k ∧ field16 (frameBytes k q w p) 3 = q ∧ field16 (frameBytes k q w p) 5 = w ∧
    (field16 (frameBytes k q w p) 7).toNat = p.length ∧ (frameBytes k q w p).drop 9 = p ∧
    field16 (frameBytes k q w p) 0 = crc16 ((frameBytes k q w p).drop 2)

/-- R108 (c): different tuples give different frames. -/
def Obligations.EncodingIsInjective : Prop :=
  ∀ (k k' : Byte) (q q' w w' : Word) (p p' : List Byte),
    frameBytes k q w p = frameBytes k' q' w' p' → k = k' ∧ q = q' ∧ w = w' ∧ p = p'

/-- R77, R12: the commands of `encode_data(payload, s, t)` for at most MAXP bytes leave exactly that frame in `txf`, whatever was
pushed before, with no overflow and no refusal. -/
def Obligations.EncodeDataProgramBuildsTheFrame : Prop :=
  ∀ (p : List Byte) (q w : Word) (s : State), s.rdPhase = .idle → BuffersWf s → p.length ≤ 20 →
    ∃ t, runCommands (encodeDataProgram p q w) s = .next t ∧
      memSlice t.txf 0 t.txFlen.val = frameBytes 0x01 q w p ∧ memSlice t.txp 0 t.txPlen.val = p ∧
      { t with txp := s.txp, txPlen := s.txPlen, txf := s.txf, txFlen := s.txFlen } = { s with resp := none }

/-! Decoder -/

/-- R120, R64, R100: a byte range decodes as valid exactly when it is the encoding of the fields it decodes to, with their length
and their checksum. -/
def Obligations.ValidMeansExactlyEncoded : Prop :=
  ∀ (bs : List Byte) (n : Nat) (f : Frame), n ≤ bs.length →
    (decodeAndVerify bs n = some f ↔
      f.payload.length = f.length.toNat ∧ bs.take n = frameBytes f.kind f.sequence f.total f.payload)

/-- R128 (b): replacing any one byte of an encoded frame by any other value gives Invalid. -/
def Obligations.SingleByteCorruptionIsRejected : Prop :=
  ∀ (k : Byte) (q w : Word) (p : List Byte) (j : Nat) (x : Byte), p.length ≤ 65535 → j < 9 + p.length →
    x ≠ (frameBytes k q w p).getD j 0 → decodeAndVerify ((frameBytes k q w p).set j x) (9 + p.length) = none

/-- R128 (c), R127 (d), R146: an encoded frame taken with any other byte count, one short, one over, or run on into the bytes that
follow it, is Invalid. -/
def Obligations.WrongByteCountIsInvalid : Prop :=
  ∀ (k : Byte) (q w : Word) (p more : List Byte) (n : Nat), p.length ≤ 65535 → n ≠ 9 + p.length →
    decodeAndVerify (frameBytes k q w p ++ more) n = none

/-- R121, R120: DECODE stores the fields of a valid frame and answers 1, or clears them and answers 0; everything else is unchanged. -/
def Obligations.DecodeStoresTheResult : Prop :=
  decodeCommand [0x31] = .ok .decode ∧
  (∀ (s : State) (f : Frame), s.rdPhase = .idle → f.payload.length = f.length.toNat →
    memSlice s.rxb 0 s.rxCount.val = frameBytes f.kind f.sequence f.total f.payload →
    exec .decode s = .next { s with
      rxValid := true, rxKind := f.kind, rxSeq := f.sequence, rxTotal := f.total, rxLen := f.length,
      resp := some 0x0001 }) ∧
  (∀ s : State, s.rdPhase = .idle →
    (∀ f : Frame, ¬ (f.payload.length = f.length.toNat ∧
      memSlice s.rxb 0 s.rxCount.val = frameBytes f.kind f.sequence f.total f.payload)) →
    exec .decode s = .next { s with
      rxValid := false, rxKind := 0, rxSeq := 0, rxTotal := 0, rxLen := 0, resp := some 0x0000 })

/-- R122. -/
def Obligations.RxbRdReadsTheBuffer : Prop :=
  (∀ h l : Byte, decodeCommand [0x32, h, l] = .ok (.rxbRd (be16Join h l))) ∧
  ∀ (i : Word) (s : State), s.rdPhase = .idle →
    exec (.rxbRd i) s = .next (if i.toNat < s.rxCount.val then
      { s with resp := some ((memRead s.rxb i.toNat).setWidth 16) }
    else { s with cmdErr := true, resp := some 0x0000 })

/-! Message Reader -/

/-- R136: a read starts with an empty buffer and no frame; the command itself gets no response yet. -/
def Obligations.ReadFrameStartsARead : Prop :=
  decodeCommand [0x30] = .ok .readFrame ∧
  ∀ s : State, s.rdPhase = .idle →
    ∃ t, exec .readFrame s = .next t ∧ t.rxCount.val = 0 ∧ t.rxNeed.val = 9 ∧
      { t with rxCount := s.rxCount, rxNeed := s.rxNeed } =
        { s with rxValid := false, rxKind := 0, rxSeq := 0, rxTotal := 0, rxLen := 0, rdPhase := .hdr, resp := none }

/-- R137 to R139, R141: while a read runs there is room for at least one byte; and one burst, in one step: the bytes follow those
accumulated, every byte of `rxb` outside them and every field outside the reader is unchanged, and phase, count, need and response
are as the pseudocode gives them. -/
def Obligations.BurstFollowsThePseudocode : Prop :=
  (∀ s : State, BlockInv s → s.rdPhase ≠ .idle → s.rxCount.val < s.rxNeed.val ∧ 1 ≤ 1500 - s.rxCount.val) ∧
  ∀ (bs : List Byte) (rest : List Input) (s : State), ArrivesNext bs rest s → Memory.wf s.rxb = true →
    ∃ t, step s = .next t ∧ OnlyReaderChanged { s with inputs := rest } t ∧
      (∀ a, a < s.rxCount.val ∨ s.rxCount.val + bs.length ≤ a → memRead t.rxb a = memRead s.rxb a) ∧
      (∀ j, j < bs.length → memRead t.rxb (s.rxCount.val + j) = bs.getD j 0) ∧
      (if s.rdPhase = .hdr ∧ 9 ≤ s.rxCount.val + bs.length then
        if memRead t.rxb 2 = 0x01 then
          if 1500 < 9 + (memField16 t.rxb 7).toNat then
            t.rxCount.val = 0 ∧ t.rxNeed.val = 9 ∧ t.rdPhase = .idle ∧ t.resp = some 0
          else
            t.rxCount.val = s.rxCount.val + bs.length ∧ t.rxNeed.val = 9 + (memField16 t.rxb 7).toNat ∧
            (if t.rxNeed.val ≤ t.rxCount.val then
              t.rdPhase = .idle ∧ t.resp = some (BitVec.ofNat 16 t.rxCount.val)
            else t.rdPhase = .pay ∧ t.resp = none)
        else
          t.rxCount.val = s.rxCount.val + bs.length ∧ t.rxNeed = s.rxNeed ∧ t.rdPhase = .idle ∧
          t.resp = some (BitVec.ofNat 16 t.rxCount.val)
      else
        t.rxCount.val = s.rxCount.val + bs.length ∧ t.rxNeed = s.rxNeed ∧
        (if s.rdPhase = .pay ∧ s.rxNeed.val ≤ t.rxCount.val then
          t.rdPhase = .idle ∧ t.resp = some (BitVec.ofNat 16 t.rxCount.val)
        else t.rdPhase = s.rdPhase ∧ t.resp = none))

/-- R147, R203: whatever the channel has, bytes of a whole frame or not, is received in the same way; a read that returns no byte
counts as a timeout (D14), and bytes that arrive while the block is idle stay in the channel with no other effect. -/
def Obligations.ArrivalsAreReceivedAlike : Prop :=
  (∀ (bs : List Byte) (s : State) (rest : List Input), s.inputs = .rxBurst bs :: rest → s.rdPhase ≠ .idle →
    s.chan = [] → step s = .next (receive bs { s with inputs := rest })) ∧
  (∀ (bs : List Byte) (s : State) (later : List (List Byte)), s.chan = bs :: later → s.rdPhase ≠ .idle →
    Uninterrupted s → step s = .next (receive bs { s with chan := later })) ∧
  (∀ s : State, s.rdPhase ≠ .idle → receive [] s = rxTimeout s) ∧
  (∀ (bs : List Byte) (s : State) (rest : List Input), s.inputs = .rxBurst bs :: rest → s.rdPhase = .idle →
    s.held = [] → bs ≠ [] → step s = .next { s with inputs := rest, chan := s.chan ++ [bs] })

/-- R61, R137 to R139: a whole frame (DataSend, Ack, Nack, Err) that fits and arrives at the start of a read is in `rxb`, the read has ended with its byte
count, and everything outside the reader is unchanged. -/
def Obligations.WholeFrameCompletesTheRead : Prop :=
  ∀ (i : Instr) (s : State), i.space = .wireFrame → wellFormed i = true → (encode i).length ≤ 1500 → ReadStarted s →
    Memory.wf s.rxb = true →
    ∃ t, exec i s = .next t ∧ memSlice t.rxb 0 t.rxCount.val = encode i ∧ t.rxCount.val = (encode i).length ∧
      t.rxNeed.val = (encode i).length ∧ t.rdPhase = .idle ∧ t.resp = some (BitVec.ofNat 16 (encode i).length) ∧
      (∀ a, (encode i).length ≤ a → memRead t.rxb a = memRead s.rxb a) ∧ OnlyReaderChanged s t

/-- R203, R51: a whole frame that comes while the block is idle stays in the channel, behind what is there, and changes nothing else. -/
def Obligations.IdleFrameStaysInTheChannel : Prop :=
  ∀ (i : Instr) (s : State), i.space = .wireFrame → s.rdPhase = .idle →
    exec i s = .next { s with chan := s.chan ++ [encode i] }

/-- R141: a DataSend frame that cannot fit the reassembly buffer aborts the read at its header, exactly as a
timeout does; the bytes the buffer had no room for are still at the head of the channel. -/
def Obligations.OversizeFrameAbortsTheRead : Prop :=
  ∀ (ck q w : Word) (p : List Byte) (s : State), p.length ≤ 65535 → 1500 < 9 + p.length → ReadStarted s →
    Memory.wf s.rxb = true →
    ∃ t, exec (.dataSend ck q w p) s = .next t ∧ t.rxCount.val = 0 ∧ t.rxNeed.val = 9 ∧ t.rdPhase = .idle ∧
      t.resp = some 0 ∧ t.chan = (encode (.dataSend ck q w p)).drop 1500 :: s.chan ∧
      (∀ a, 1500 ≤ a → memRead t.rxb a = memRead s.rxb a) ∧ OnlyReaderChanged { s with chan := t.chan } t

/-- R142: the event that ends a read answers 0 with nothing accumulated, or the byte count, which is at least 9. -/
def Obligations.ReadAnswersZeroOrAtLeastNine : Prop :=
  ∀ s t : State, BlockInv s → s.rdPhase ≠ .idle → (∀ rest, s.inputs ≠ .reset :: rest) → step s = .next t →
    t.rdPhase = .idle →
    (t.resp = some 0 ∧ t.rxCount.val = 0) ∨
    (∃ v : Word, t.resp = some v ∧ v.toNat = t.rxCount.val ∧ 9 ≤ t.rxCount.val)

/-- R144: with a burst of at least one byte for every accumulation step, a read ends within as many steps as the buffer still has
room, whatever the bytes are. -/
def Obligations.ReadsEndWithinTheCapacity : Prop :=
  ∀ (s : State) (bursts : List (List Byte)), BlockInv s → s.rdPhase ≠ .idle → (∀ bs ∈ bursts, bs ≠ []) →
    1500 - s.rxCount.val ≤ bursts.length →
    ∃ k, k ≤ bursts.length ∧ (deliver (bursts.take k) s).rdPhase = .idle

/-- R135, R137 to R139: however a frame that fits is split into bursts, the read ends with the last of them, and the frame's bytes
are accumulated in order, exactly as if it had come in one piece. -/
def Obligations.SplitOfAFrameDoesNotMatter : Prop :=
  ∀ (i : Instr) (bursts : List (List Byte)) (s : State), i.space = .wireFrame → wellFormed i = true →
    (encode i).length ≤ 1500 → (∀ bs ∈ bursts, bs ≠ []) → bursts.flatten = encode i → ReadStarted s →
    Memory.wf s.rxb = true →
    memSlice (deliver bursts s).rxb 0 (deliver bursts s).rxCount.val = encode i ∧
    (deliver bursts s).rdPhase = .idle ∧ (deliver bursts s).resp = some (BitVec.ofNat 16 (encode i).length) ∧
    OnlyReaderChanged s (deliver bursts s)

/-- R108 (b), R128 (a), R135: what one block encodes with ENC_DATA, another block receives in any split and decodes as valid with the same
kind, sequence, total, length and payload. -/
def Obligations.SentFrameIsReceivedWhole : Prop :=
  ∀ (q w : Word) (a a' b : State) (bursts : List (List Byte)), a.rdPhase = .idle → Memory.wf a.txf = true →
    exec (.encData q w) a = .next a' → (∀ bs ∈ bursts, bs ≠ []) →
    bursts.flatten = memSlice a'.txf 0 a'.txFlen.val → ReadStarted b → Memory.wf b.rxb = true →
    ∃ c, exec .decode (deliver bursts b) = .next c ∧ c.resp = some 1 ∧ c.rxValid = true ∧ c.rxKind = 0x01 ∧
      c.rxSeq = q ∧ c.rxTotal = w ∧ c.rxLen.toNat = a.txPlen.val ∧
      memSlice c.rxb 9 a.txPlen.val = memSlice a.txp 0 a.txPlen.val

/-! Registers and flags -/

/-- R160, R22: every register number, and the refusal of every other. -/
def Obligations.RdregReadsEveryRegister : Prop :=
  (∀ n : Byte, decodeCommand [0x02, n] = .ok (.rdreg n)) ∧
  ∀ s : State, s.rdPhase = .idle →
    exec (.rdreg 0) s = .next { s with resp := some ((if s.rxValid then 1 else 0) + (if s.txOvf then 2 else 0) +
      (if s.cmdErr then 4 else 0)) } ∧
    exec (.rdreg 1) s = .next { s with resp := some s.crc } ∧
    exec (.rdreg 2) s = .next { s with resp := some (BitVec.ofNat 16 s.txPlen.val) } ∧
    exec (.rdreg 3) s = .next { s with resp := some (BitVec.ofNat 16 s.txFlen.val) } ∧
    exec (.rdreg 4) s = .next { s with resp := some (BitVec.ofNat 16 s.rxCount.val) } ∧
    exec (.rdreg 5) s = .next { s with resp := some (s.rxKind.setWidth 16) } ∧
    exec (.rdreg 6) s = .next { s with resp := some s.rxSeq } ∧
    exec (.rdreg 7) s = .next { s with resp := some s.rxTotal } ∧
    exec (.rdreg 8) s = .next { s with resp := some s.rxLen } ∧
    exec (.rdreg 9) s = .next { s with resp := some 0x0014 } ∧
    exec (.rdreg 10) s = .next { s with resp := some 0x05DC } ∧
    ∀ n : Byte, 10 < n.toNat → exec (.rdreg n) s = .next { s with cmdErr := true, resp := some 0x0000 }

/-- R19: a TXP_PUSH with the payload buffer full sets `tx_ovf`, and nothing else sets it; RESET clears it, and nothing else
clears it. -/
def Obligations.OnlyAFullPushSetsTxOvf : Prop :=
  (∀ (b : Byte) (s : State), s.rdPhase = .idle → s.txPlen.val = 20 → ∃ t, exec (.txpPush b) s = .next t ∧ t.txOvf = true) ∧
  (∀ (s : State) (rest : List Input), s.inputs = .reset :: rest → ∃ t, step s = .next t ∧ t.txOvf = false) ∧
  ∀ s t : State, step s = .next t → (∀ rest, s.inputs ≠ .reset :: rest) →
    (s.txOvf = true → t.txOvf = true) ∧
    (s.txOvf = false → t.txOvf = true → s.txPlen.val = 20 ∧
      ∃ (bs : List Byte) (b : Byte) (u : State), nextTurn s = .command bs u ∧ decodeCommand bs = .ok (.txpPush b))

/-! The whole machine -/

/-- R27: the invariant holds after reset; so does the canonical form of the three buffers (R40). -/
def Obligations.InvariantHoldsAtReset : Prop :=
  BlockInv State.reset ∧ BuffersWf State.reset

/-- R40: every step keeps the three buffers in canonical form and inside their spaces. -/
def Obligations.EveryStepKeepsTheBuffers : Prop :=
  ∀ s t : State, BuffersWf s → step s = .next t → BuffersWf t

/-- R27: every step, whatever the agents outside do, keeps the invariant. -/
def Obligations.EveryStepKeepsTheInvariant : Prop :=
  ∀ s t : State, BlockInv s → BuffersWf s → step s = .next t → BlockInv t

/-- R12, R13, R14, R26: buffer bytes at or beyond the counts are never read: two states that differ in nothing else step to two
states that differ in nothing else, with the same responses. -/
def Obligations.DeadBytesAreUnobservable : Prop :=
  ∀ s t s' t' : State, SameView s t → BuffersWf s → BuffersWf t → step s = .next s' → step t = .next t' →
    SameView s' t' ∧ s'.resp = t'.resp

/-! The host agent -/

/-- R172: the chunks in order are the buffer, every one is nonempty and holds MAXP bytes but the last, which holds the remainder. -/
def Obligations.ChunksPartitionTheBuffer : Prop :=
  ∀ buffer : List Byte, buffer ≠ [] →
    (List.range (totalChunks buffer.length)).flatMap (chunk buffer) = buffer ∧
    (∀ i, i + 1 < totalChunks buffer.length → (chunk buffer i).length = 20) ∧
    (chunk buffer (totalChunks buffer.length - 1)).length =
      (if buffer.length % 20 = 0 then 20 else buffer.length % 20)

/-- R175 to R177: the sender's decision on a valid reply rests on its kind alone: Ack advances, Nack repeats, anything else fails;
an invalid reply repeats. -/
def Obligations.SenderDecidesOnKindAlone : Prop :=
  ∀ (x : Sender) (f : Frame), x.phase = .await →
    (senderReply none x = { x with phase := .write }) ∧
    (f.kind = 0x02 → senderReply (some f) x =
      if x.chunkIndex + 1 < totalChunks x.buffer.length then { x with chunkIndex := x.chunkIndex + 1, phase := .write }
      else { x with phase := .success }) ∧
    (f.kind = 0x03 → senderReply (some f) x = { x with phase := .write }) ∧
    (f.kind ≠ 0x02 → f.kind ≠ 0x03 → senderReply (some f) x = { x with phase := .failure })

/-- R180 (and R179), step by step, in the reading of R181 and D24: the receiver does not test `kind`. An invalid read is answered with
Nack(expected, total, or 0 while it is unknown); the first valid frame fixes the total, which then never changes; a gap is answered
with Nack(expected, total), a duplicate with Ack(sequence, total), both leaving the session as it was; only the frame in sequence is
appended; the session is over once `expected` equals a known total, and then sends nothing, changes nothing and returns its buffer.
The model's choices in it: `expected` is an unbounded natural number, sent as 16 bits (log entry 11), and a reply is written whole
(log entry 12). -/
def Obligations.ReceiverAppendsInOrderOnly : Prop :=
  (∀ (x : Receiver) (r : Option Frame), receiverReply r x =
    if receiverDone x = true then (x, none) else ((receiverPass r x).1, some (receiverPass r x).2)) ∧
  (∀ x : Receiver, x.expected < 65536 →
    (x.total = none → receiverReply none x = (x, some (frameBytes 0x03 (BitVec.ofNat 16 x.expected) 0 []))) ∧
    (∀ t : Word, x.total = some t → x.expected ≠ t.toNat →
      receiverReply none x = (x, some (frameBytes 0x03 (BitVec.ofNat 16 x.expected) t [])))) ∧
  (∀ (x : Receiver) (f : Frame), x.total = none →
    receiverPass (some f) x = receiverPass (some f) { x with total := some f.total }) ∧
  (∀ (x : Receiver) (f : Frame) (t : Word), x.total = some t →
    (x.expected < f.sequence.toNat → receiverPass (some f) x =
      (x, frameBytes 0x03 (BitVec.ofNat 16 x.expected) t [])) ∧
    (f.sequence.toNat < x.expected → receiverPass (some f) x = (x, frameBytes 0x02 f.sequence t [])) ∧
    (f.sequence.toNat = x.expected → receiverPass (some f) x =
      ({ expected := x.expected + 1, total := some t, out := x.out ++ f.payload }, frameBytes 0x02 f.sequence t []))) ∧
  (∀ x : Receiver, receiverDone x = true ↔ ∃ t : Word, x.total = some t ∧ x.expected = t.toNat) ∧
  (∀ (x : Receiver) (reads : List (Option Frame)), receiverDone x = true → receiverLoop reads x = ([], some x.out))

/-- R183: a buffer whose chunks arrive in order, each valid, is returned byte for byte, one Ack per chunk, and a read that would
come later has no part in it. Log entries 11 and 12 are the model's choices. -/
def Obligations.ReceiverReturnsTheBuffer : Prop :=
  ∀ (buffer : List Byte) (later : List (Option Frame)), buffer ≠ [] → totalChunks buffer.length ≤ 65535 →
    receiveTransfer ((List.range (totalChunks buffer.length)).map (fun i => some (chunkFrame buffer i)) ++ later) =
      ((List.range (totalChunks buffer.length)).map
        (fun i => frameBytes 0x02 (BitVec.ofNat 16 i) (BitVec.ofNat 16 (totalChunks buffer.length)) []), some buffer)

/-! The pseudo-operations -/

/-- R77: each `encode_*`, its commands and then `frame()`, hands the host exactly the frame's bytes, and leaves everything but the
encoder's buffers and the response as it was. -/
def Obligations.EncodeCallsReturnTheFrame : Prop :=
  (∀ (p : List Byte) (q w : Word) (s : State), s.rdPhase = .idle → BuffersWf s → p.length ≤ 20 →
    ∃ t, encodeDataCall p q w s = .next (frameBytes 0x01 q w p, t) ∧
      { t with txp := s.txp, txPlen := s.txPlen, txf := s.txf, txFlen := s.txFlen, resp := s.resp } = s) ∧
  (∀ (q w : Word) (s : State), s.rdPhase = .idle → BuffersWf s →
    (∃ t, encodeAckCall q w s = .next (frameBytes 0x02 q w [], t) ∧
      { t with txf := s.txf, txFlen := s.txFlen, resp := s.resp } = s) ∧
    (∃ t, encodeNackCall q w s = .next (frameBytes 0x03 q w [], t) ∧
      { t with txf := s.txf, txFlen := s.txFlen, resp := s.resp } = s) ∧
    (∃ t, encodeErrCall s = .next (frameBytes 0x04 0 0 [], t) ∧
      { t with txf := s.txf, txFlen := s.txFlen, resp := s.resp } = s))

/-- R77: `decode_and_verify`, DECODE and then the register and buffer reads, hands the host exactly the frame that R120 gives, or
Invalid, and leaves everything but the decoder's registers and the response as it was. -/
def Obligations.DecodeCallReturnsTheFrame : Prop :=
  ∀ s : State, s.rdPhase = .idle →
    ∃ t, decodeCall s = .next (decodeAndVerify (received s) s.rxCount.val, t) ∧
      { t with rxValid := s.rxValid, rxKind := s.rxKind, rxSeq := s.rxSeq, rxTotal := s.rxTotal, rxLen := s.rxLen, resp := s.resp } = s

/-- R77: `read_frame` answers the byte count of a whole frame that comes in any bursts, and 0 where a timeout comes; it has no
answer while no event has come. That frames are instructions and that bursts come as inputs are the model's (log entries 5, 6). -/
def Obligations.ReadFrameCallReturnsTheCount : Prop :=
  (∀ (i : Instr) (bursts : List (List Byte)) (s : State), i.space = .wireFrame → wellFormed i = true →
    (encode i).length ≤ 1500 → (∀ bs ∈ bursts, bs ≠ []) → bursts.flatten = encode i → s.rdPhase = .idle → s.chan = [] →
    s.inputs = bursts.map .rxBurst → Memory.wf s.rxb = true →
    ∃ t, readFrameCall bursts.length s = .next (some (BitVec.ofNat 16 (encode i).length), t) ∧ received t = encode i) ∧
  (∀ (s : State) (rest : List Input), s.rdPhase = .idle → s.inputs = .rxTimeout :: rest →
    ∃ t, readFrameCall 1 s = .next (some 0, t) ∧ t.rxCount.val = 0) ∧
  (∀ (s : State) (n : Nat), s.rdPhase = .idle → s.chan = [] → s.inputs = [] →
    ∃ t, readFrameCall n s = .next (none, t))
end

