-- ==== Sys2Proof/Laws/Encoding.lean ====
section
/-! SUPPORT. The small lemmas of the byte-order helpers and of the table words (`Decode.lean`). -/
namespace Sys2Proof

/-! At R6's byte order a field's first byte on the wire is its high half. -/

@[simp] theorem wireJoin_eq (first second : Byte) : wireJoin first second = be16Join first second := rfl
@[simp] theorem wireSplit_eq (v : Word) : wireSplit v = be16 v := rfl

@[simp] theorem be16_length (v : Word) : (be16 v).length = 2 := rfl

/-- A 16-bit value split into its bytes, high half first, and joined again (R9: `be16` is the inverse of `BE16`). -/
@[simp] theorem be16Join_halves (v : Word) : be16Join (v.extractLsb' 8 8) (v.extractLsb' 0 8) = v := by
  apply BitVec.eq_of_getLsbD_eq
  intro i hi
  have h16 : i < 16 := hi
  by_cases h : i < 8
  · simp [be16Join, h, h16]
  · have h8 : i - 8 < 8 := by omega
    have hb : 8 + (i - 8) = i := by omega
    simp [be16Join, h, h16, h8, hb]

/-- The high half of a joined value is the byte that came first. -/
@[simp] theorem be16Join_high (h l : Byte) : (be16Join h l).extractLsb' 8 8 = h := by
  apply BitVec.eq_of_getLsbD_eq
  intro i hi
  have h16 : 8 + i < 16 := by omega
  simp [be16Join, hi, h16]

/-- The low half of a joined value is the byte that came second. -/
@[simp] theorem be16Join_low (h l : Byte) : (be16Join h l).extractLsb' 0 8 = l := by
  apply BitVec.eq_of_getLsbD_eq
  intro i hi
  have h16 : i < 16 := by omega
  simp [be16Join, hi, h16]

/-- Joining is injective: the two bytes can be read back. -/
theorem be16Join_inj {h l h' l' : Byte} (e : be16Join h l = be16Join h' l') : h = h' ∧ l = l' :=
  ⟨by rw [← be16Join_high h l, e, be16Join_high], by rw [← be16Join_low h l, e, be16Join_low]⟩

theorem be16_join (h l : Byte) : be16 (be16Join h l) = [h, l] := by simp [be16]

@[simp] theorem wireBytes_length (ck : Word) (k : Byte) (s t l : Word) (p : List Byte) :
    (wireBytes ck k s t l p).length = 9 + p.length := by simp [wireBytes]; omega

/-- A wire frame written out byte by byte (R61). -/
theorem wireBytes_eq (ck : Word) (k : Byte) (s t l : Word) (p : List Byte) :
    wireBytes ck k s t l p =
      ck.extractLsb' 8 8 :: ck.extractLsb' 0 8 :: k :: s.extractLsb' 8 8 :: s.extractLsb' 0 8 ::
        t.extractLsb' 8 8 :: t.extractLsb' 0 8 :: l.extractLsb' 8 8 :: l.extractLsb' 0 8 :: p := by
  simp [wireBytes, be16]

/-- Decoding a wire frame's bytes gives its fields back to the table of kinds (R64). -/
theorem decodeFrame_wireBytes (ck : Word) (k : Byte) (s t l : Word) (p : List Byte) :
    decodeFrame (wireBytes ck k s t l p) = decodeKind k ck s t l p := by
  rw [wireBytes_eq]; simp [decodeFrame]

/-- No instruction is encoded in no bytes. -/
theorem encode_ne_nil (i : Instr) : encode i ≠ [] := by
  cases i <;> simp [encode, wireBytes, be16]

end Sys2Proof
end

