-- ==== Sys2Proof/Laws/Memory.lean ====
section
/-! SUPPORT. The laws of the byte spaces (`Machine/Ops.lean`): a read after a write to the same address gives the value
written, a write leaves every other address alone, and every write keeps the canonical form. -/
namespace Sys2Proof.Machine

theorem memRead_memCell_append (a b : Nat) (v : Byte) (m : Memory) (h : a ≠ b) :
    memRead (memCell a v ++ m) b = memRead m b := by
  unfold memCell
  split
  · rfl
  · simp [memRead, h]

/-- Nothing is listed below `lo`, so an address below `lo` reads as unlisted. -/
theorem memRead_of_lt {lo : Nat} {m : Memory} (h : memWfFrom lo m = true) {a : Nat} (ha : a < lo) :
    memRead m a = unlistedByte := by
  induction m generalizing lo with
  | nil => rfl
  | cons c rest ih =>
    obtain ⟨k, v⟩ := c
    simp only [memWfFrom, Bool.and_eq_true, decide_eq_true_eq] at h
    have hk : ¬ k = a := by omega
    simp only [memRead, hk, if_false]
    exact ih h.2 (by omega)

theorem memRead_memCell_same (a : Nat) (v : Byte) (m : Memory) (h : memRead m a = unlistedByte) :
    memRead (memCell a v ++ m) a = v := by
  unfold memCell
  split
  · rename_i e; simpa [e] using h
  · simp [memRead]

/-- A read at the address written. -/
theorem memRead_memWrite_same {lo : Nat} {m : Memory} (h : memWfFrom lo m = true) (a : Nat) (v : Byte) :
    memRead (memWrite m a v) a = v := by
  induction m generalizing lo with
  | nil => simpa [memWrite] using memRead_memCell_same a v [] rfl
  | cons c rest ih =>
    obtain ⟨k, w⟩ := c
    simp only [memWfFrom, Bool.and_eq_true, decide_eq_true_eq] at h
    simp only [memWrite]
    split
    · rename_i hlt
      refine memRead_memCell_same a v _ ?_
      have hk : ¬ k = a := by omega
      simp only [memRead, hk, if_false]
      exact memRead_of_lt h.2 (by omega)
    · split
      · rename_i heq
        exact memRead_memCell_same a v _ (memRead_of_lt h.2 (by omega))
      · rename_i hne
        have hk : ¬ k = a := fun e => hne e.symm
        simp only [memRead, hk, if_false]
        exact ih h.2

/-- A read at any other address. -/
theorem memRead_memWrite_other (m : Memory) {a b : Nat} (v : Byte) (hab : a ≠ b) :
    memRead (memWrite m a v) b = memRead m b := by
  induction m with
  | nil => simpa [memWrite] using memRead_memCell_append a b v [] hab
  | cons c rest ih =>
    obtain ⟨k, w⟩ := c
    simp only [memWrite]
    split
    · exact memRead_memCell_append a b v _ hab
    · split
      · rename_i heq
        rw [memRead_memCell_append a b v _ hab]
        have hk : ¬ k = b := by omega
        simp [memRead, hk]
      · simp only [memRead, ih]

theorem memWfFrom_mono {lo lo' : Nat} (hl : lo' ≤ lo) {m : Memory} (h : memWfFrom lo m = true) :
    memWfFrom lo' m = true := by
  cases m with
  | nil => rfl
  | cons c rest =>
    obtain ⟨k, v⟩ := c
    simp only [memWfFrom, Bool.and_eq_true, decide_eq_true_eq] at h ⊢
    exact ⟨⟨by omega, h.1.2⟩, h.2⟩

theorem memWfFrom_cell_append {lo a : Nat} {m : Memory} (v : Byte) (hl : lo ≤ a) (h : memWfFrom (a + 1) m = true) :
    memWfFrom lo (memCell a v ++ m) = true := by
  unfold memCell
  split
  · exact memWfFrom_mono (by omega) h
  · rename_i hne
    simp [memWfFrom, hl, h, hne]

theorem memWfFrom_memWrite {lo : Nat} {m : Memory} (h : memWfFrom lo m = true) {a : Nat} (hl : lo ≤ a) (v : Byte) :
    memWfFrom lo (memWrite m a v) = true := by
  induction m generalizing lo with
  | nil => simpa [memWrite] using memWfFrom_cell_append (m := []) v hl rfl
  | cons c rest ih =>
    obtain ⟨k, w⟩ := c
    have h' := h
    simp only [memWfFrom, Bool.and_eq_true, decide_eq_true_eq] at h
    simp only [memWrite]
    split
    · refine memWfFrom_cell_append v hl ?_
      simp only [memWfFrom, Bool.and_eq_true, decide_eq_true_eq]
      exact ⟨⟨by omega, h.1.2⟩, h.2⟩
    · split
      · rename_i heq
        subst heq
        exact memWfFrom_cell_append v hl h.2
      · simp only [memWfFrom, Bool.and_eq_true, decide_eq_true_eq]
        exact ⟨h.1, ih h.2 (by omega)⟩

/-- One written byte keeps the canonical form. -/
theorem wf_memWrite {m : Memory} (h : Memory.wf m = true) (a : Nat) (v : Byte) : Memory.wf (memWrite m a v) = true :=
  memWfFrom_memWrite h (Nat.zero_le a) v

/-- A run of written bytes keeps the canonical form. -/
theorem wf_memWriteBytes {m : Memory} (h : Memory.wf m = true) (a : Nat) (bs : List Byte) :
    Memory.wf (memWriteBytes m a bs) = true := by
  induction bs generalizing m a with
  | nil => exact h
  | cons b bs ih => exact ih (wf_memWrite h a b) (a + 1)

theorem memWithin_cell_append {n a : Nat} {m : Memory} (v : Byte) (ha : a < n) (h : memWithin n m = true) :
    memWithin n (memCell a v ++ m) = true := by
  unfold memCell
  split
  · exact h
  · simpa [memWithin, ha] using h

/-- One byte written inside the space keeps every listed address inside it. -/
theorem within_memWrite {n : Nat} {m : Memory} (h : memWithin n m = true) {a : Nat} (ha : a < n) (v : Byte) :
    memWithin n (memWrite m a v) = true := by
  induction m with
  | nil => simpa [memWrite] using memWithin_cell_append (m := []) v ha rfl
  | cons c rest ih =>
    obtain ⟨k, w⟩ := c
    have h' : k < n ∧ memWithin n rest = true := by simpa [memWithin] using h
    simp only [memWrite]
    split
    · exact memWithin_cell_append v ha h
    · split
      · exact memWithin_cell_append v ha h'.2
      · have := ih h'.2
        simp only [memWithin, List.all_cons, Bool.and_eq_true, decide_eq_true_eq]
        exact ⟨h'.1, this⟩

/-- A run of bytes written inside the space keeps every listed address inside it. -/
theorem within_memWriteBytes {n : Nat} {m : Memory} (h : memWithin n m = true) {a : Nat} {bs : List Byte}
    (hb : a + bs.length ≤ n) : memWithin n (memWriteBytes m a bs) = true := by
  induction bs generalizing m a with
  | nil => exact h
  | cons b bs ih =>
    simp only [List.length_cons] at hb
    exact ih (within_memWrite h (by omega) b) (by omega)

/-- A run of writes leaves every address outside it alone. -/
theorem memRead_memWriteBytes_outside (m : Memory) (a : Nat) (bs : List Byte) {x : Nat}
    (hx : x < a ∨ a + bs.length ≤ x) : memRead (memWriteBytes m a bs) x = memRead m x := by
  induction bs generalizing m a with
  | nil => rfl
  | cons b bs ih =>
    simp only [List.length_cons] at hx
    simp only [memWriteBytes]
    rw [ih _ _ (by omega), memRead_memWrite_other _ _ (by omega)]

/-- A read inside a run of writes gives the byte written there. -/
theorem memRead_memWriteBytes_inside {m : Memory} (h : Memory.wf m = true) (a : Nat) (bs : List Byte) {j : Nat}
    (hj : j < bs.length) : memRead (memWriteBytes m a bs) (a + j) = bs.getD j 0 := by
  induction bs generalizing m a j with
  | nil => simp at hj
  | cons b bs ih =>
    simp only [memWriteBytes]
    cases j with
    | zero =>
      rw [memRead_memWriteBytes_outside _ _ _ (by omega)]
      simpa using memRead_memWrite_same h a b
    | succ j =>
      simp only [List.length_cons] at hj
      have := ih (wf_memWrite h a b) (a + 1) (j := j) (by omega)
      simpa [Nat.add_assoc, Nat.add_comm 1 j] using this

/-- A slice reads each of its addresses. -/
theorem memSlice_getD (m : Memory) (a n : Nat) {j : Nat} (hj : j < n) : (memSlice m a n).getD j 0 = memRead m (a + j) := by
  induction n generalizing a j with
  | zero => omega
  | succ n ih =>
    cases j with
    | zero => simp [memSlice]
    | succ j =>
      have := ih (a + 1) (j := j) (by omega)
      simpa [memSlice, Nat.add_assoc, Nat.add_comm 1 j] using this

/-- Slices are equal when every address of theirs reads the same. -/
theorem memSlice_congr {m m' : Memory} {a n : Nat} (h : ∀ j, j < n → memRead m (a + j) = memRead m' (a + j)) :
    memSlice m a n = memSlice m' a n := by
  induction n generalizing a with
  | zero => rfl
  | succ n ih =>
    have h0 := h 0 (by omega)
    have ih' := ih (a := a + 1) (fun j hj => by
      have := h (j + 1) (by omega)
      simpa [Nat.add_assoc, Nat.add_comm 1 j] using this)
    simp only [Nat.add_zero] at h0
    simp [memSlice, h0, ih']

/-- A slice of a run of writes is the run. -/
theorem memSlice_memWriteBytes {m : Memory} (h : Memory.wf m = true) (a : Nat) (bs : List Byte) :
    memSlice (memWriteBytes m a bs) a bs.length = bs := by
  apply List.ext_getElem
  · rw [memSlice_length]
  · intro j h1 h2
    have e1 := memSlice_getD (memWriteBytes m a bs) a bs.length h2
    rw [memRead_memWriteBytes_inside h a bs h2] at e1
    rwa [List.getD_eq_getElem _ _ h1, List.getD_eq_getElem _ _ h2] at e1

/-- A slice splits. -/
theorem memSlice_add (m : Memory) (a n k : Nat) : memSlice m a (n + k) = memSlice m a n ++ memSlice m (a + n) k := by
  induction n generalizing a with
  | zero => simp [memSlice]
  | succ n ih =>
    have e : n + 1 + k = (n + k) + 1 := by omega
    rw [e]; simp [memSlice, ih, Nat.add_assoc, Nat.add_comm 1 n]

/-- Bytes written right after a slice extend it. -/
theorem memSlice_append {m : Memory} (h : Memory.wf m = true) (n : Nat) (bs : List Byte) :
    memSlice (memWriteBytes m n bs) 0 (n + bs.length) = memSlice m 0 n ++ bs := by
  rw [memSlice_add, Nat.zero_add, memSlice_memWriteBytes h]
  congr 1
  exact memSlice_congr fun j hj => memRead_memWriteBytes_outside m n bs (by omega)

end Sys2Proof.Machine
end

