-- ==== Sys2Proof/Laws/State.lean ====
section
/-! SUPPORT. What each named update of the state leaves in each field: one lemma per field per update, each true by unfolding
the update. -/
namespace Sys2Proof.Machine

/-! `answer` (R162: a response). -/

@[simp] theorem answer_crc (v : Word) (s : State) : (answer v s).crc = s.crc := rfl
@[simp] theorem answer_txp (v : Word) (s : State) : (answer v s).txp = s.txp := rfl
@[simp] theorem answer_txPlen (v : Word) (s : State) : (answer v s).txPlen = s.txPlen := rfl
@[simp] theorem answer_txf (v : Word) (s : State) : (answer v s).txf = s.txf := rfl
@[simp] theorem answer_txFlen (v : Word) (s : State) : (answer v s).txFlen = s.txFlen := rfl
@[simp] theorem answer_rxb (v : Word) (s : State) : (answer v s).rxb = s.rxb := rfl
@[simp] theorem answer_rxCount (v : Word) (s : State) : (answer v s).rxCount = s.rxCount := rfl
@[simp] theorem answer_rxNeed (v : Word) (s : State) : (answer v s).rxNeed = s.rxNeed := rfl
@[simp] theorem answer_rdPhase (v : Word) (s : State) : (answer v s).rdPhase = s.rdPhase := rfl
@[simp] theorem answer_rxValid (v : Word) (s : State) : (answer v s).rxValid = s.rxValid := rfl
@[simp] theorem answer_rxKind (v : Word) (s : State) : (answer v s).rxKind = s.rxKind := rfl
@[simp] theorem answer_rxSeq (v : Word) (s : State) : (answer v s).rxSeq = s.rxSeq := rfl
@[simp] theorem answer_rxTotal (v : Word) (s : State) : (answer v s).rxTotal = s.rxTotal := rfl
@[simp] theorem answer_rxLen (v : Word) (s : State) : (answer v s).rxLen = s.rxLen := rfl
@[simp] theorem answer_txOvf (v : Word) (s : State) : (answer v s).txOvf = s.txOvf := rfl
@[simp] theorem answer_cmdErr (v : Word) (s : State) : (answer v s).cmdErr = s.cmdErr := rfl
@[simp] theorem answer_resp (v : Word) (s : State) : (answer v s).resp = some v := rfl
@[simp] theorem answer_held (v : Word) (s : State) : (answer v s).held = s.held := rfl
@[simp] theorem answer_chan (v : Word) (s : State) : (answer v s).chan = s.chan := rfl
@[simp] theorem answer_inputs (v : Word) (s : State) : (answer v s).inputs = s.inputs := rfl

/-! `silent` (R162: no response). -/

@[simp] theorem silent_crc (s : State) : (silent s).crc = s.crc := rfl
@[simp] theorem silent_txp (s : State) : (silent s).txp = s.txp := rfl
@[simp] theorem silent_txPlen (s : State) : (silent s).txPlen = s.txPlen := rfl
@[simp] theorem silent_txf (s : State) : (silent s).txf = s.txf := rfl
@[simp] theorem silent_txFlen (s : State) : (silent s).txFlen = s.txFlen := rfl
@[simp] theorem silent_rxb (s : State) : (silent s).rxb = s.rxb := rfl
@[simp] theorem silent_rxCount (s : State) : (silent s).rxCount = s.rxCount := rfl
@[simp] theorem silent_rxNeed (s : State) : (silent s).rxNeed = s.rxNeed := rfl
@[simp] theorem silent_rdPhase (s : State) : (silent s).rdPhase = s.rdPhase := rfl
@[simp] theorem silent_rxValid (s : State) : (silent s).rxValid = s.rxValid := rfl
@[simp] theorem silent_rxKind (s : State) : (silent s).rxKind = s.rxKind := rfl
@[simp] theorem silent_rxSeq (s : State) : (silent s).rxSeq = s.rxSeq := rfl
@[simp] theorem silent_rxTotal (s : State) : (silent s).rxTotal = s.rxTotal := rfl
@[simp] theorem silent_rxLen (s : State) : (silent s).rxLen = s.rxLen := rfl
@[simp] theorem silent_txOvf (s : State) : (silent s).txOvf = s.txOvf := rfl
@[simp] theorem silent_cmdErr (s : State) : (silent s).cmdErr = s.cmdErr := rfl
@[simp] theorem silent_resp (s : State) : (silent s).resp = none := rfl
@[simp] theorem silent_held (s : State) : (silent s).held = s.held := rfl
@[simp] theorem silent_chan (s : State) : (silent s).chan = s.chan := rfl
@[simp] theorem silent_inputs (s : State) : (silent s).inputs = s.inputs := rfl

/-! `setTxOvf` (R19). -/

@[simp] theorem setTxOvf_crc (s : State) : (setTxOvf s).crc = s.crc := rfl
@[simp] theorem setTxOvf_txp (s : State) : (setTxOvf s).txp = s.txp := rfl
@[simp] theorem setTxOvf_txPlen (s : State) : (setTxOvf s).txPlen = s.txPlen := rfl
@[simp] theorem setTxOvf_txf (s : State) : (setTxOvf s).txf = s.txf := rfl
@[simp] theorem setTxOvf_txFlen (s : State) : (setTxOvf s).txFlen = s.txFlen := rfl
@[simp] theorem setTxOvf_rxb (s : State) : (setTxOvf s).rxb = s.rxb := rfl
@[simp] theorem setTxOvf_rxCount (s : State) : (setTxOvf s).rxCount = s.rxCount := rfl
@[simp] theorem setTxOvf_rxNeed (s : State) : (setTxOvf s).rxNeed = s.rxNeed := rfl
@[simp] theorem setTxOvf_rdPhase (s : State) : (setTxOvf s).rdPhase = s.rdPhase := rfl
@[simp] theorem setTxOvf_rxValid (s : State) : (setTxOvf s).rxValid = s.rxValid := rfl
@[simp] theorem setTxOvf_rxKind (s : State) : (setTxOvf s).rxKind = s.rxKind := rfl
@[simp] theorem setTxOvf_rxSeq (s : State) : (setTxOvf s).rxSeq = s.rxSeq := rfl
@[simp] theorem setTxOvf_rxTotal (s : State) : (setTxOvf s).rxTotal = s.rxTotal := rfl
@[simp] theorem setTxOvf_rxLen (s : State) : (setTxOvf s).rxLen = s.rxLen := rfl
@[simp] theorem setTxOvf_txOvf (s : State) : (setTxOvf s).txOvf = true := rfl
@[simp] theorem setTxOvf_cmdErr (s : State) : (setTxOvf s).cmdErr = s.cmdErr := rfl
@[simp] theorem setTxOvf_resp (s : State) : (setTxOvf s).resp = s.resp := rfl
@[simp] theorem setTxOvf_held (s : State) : (setTxOvf s).held = s.held := rfl
@[simp] theorem setTxOvf_chan (s : State) : (setTxOvf s).chan = s.chan := rfl
@[simp] theorem setTxOvf_inputs (s : State) : (setTxOvf s).inputs = s.inputs := rfl

/-! `setCmdErr` (R20). -/

@[simp] theorem setCmdErr_crc (s : State) : (setCmdErr s).crc = s.crc := rfl
@[simp] theorem setCmdErr_txp (s : State) : (setCmdErr s).txp = s.txp := rfl
@[simp] theorem setCmdErr_txPlen (s : State) : (setCmdErr s).txPlen = s.txPlen := rfl
@[simp] theorem setCmdErr_txf (s : State) : (setCmdErr s).txf = s.txf := rfl
@[simp] theorem setCmdErr_txFlen (s : State) : (setCmdErr s).txFlen = s.txFlen := rfl
@[simp] theorem setCmdErr_rxb (s : State) : (setCmdErr s).rxb = s.rxb := rfl
@[simp] theorem setCmdErr_rxCount (s : State) : (setCmdErr s).rxCount = s.rxCount := rfl
@[simp] theorem setCmdErr_rxNeed (s : State) : (setCmdErr s).rxNeed = s.rxNeed := rfl
@[simp] theorem setCmdErr_rdPhase (s : State) : (setCmdErr s).rdPhase = s.rdPhase := rfl
@[simp] theorem setCmdErr_rxValid (s : State) : (setCmdErr s).rxValid = s.rxValid := rfl
@[simp] theorem setCmdErr_rxKind (s : State) : (setCmdErr s).rxKind = s.rxKind := rfl
@[simp] theorem setCmdErr_rxSeq (s : State) : (setCmdErr s).rxSeq = s.rxSeq := rfl
@[simp] theorem setCmdErr_rxTotal (s : State) : (setCmdErr s).rxTotal = s.rxTotal := rfl
@[simp] theorem setCmdErr_rxLen (s : State) : (setCmdErr s).rxLen = s.rxLen := rfl
@[simp] theorem setCmdErr_txOvf (s : State) : (setCmdErr s).txOvf = s.txOvf := rfl
@[simp] theorem setCmdErr_cmdErr (s : State) : (setCmdErr s).cmdErr = true := rfl
@[simp] theorem setCmdErr_resp (s : State) : (setCmdErr s).resp = s.resp := rfl
@[simp] theorem setCmdErr_held (s : State) : (setCmdErr s).held = s.held := rfl
@[simp] theorem setCmdErr_chan (s : State) : (setCmdErr s).chan = s.chan := rfl
@[simp] theorem setCmdErr_inputs (s : State) : (setCmdErr s).inputs = s.inputs := rfl

/-! `refuse` (R161: a refused command sets `cmd_err`, answers 0, and changes nothing else). -/

@[simp] theorem refuse_crc (s : State) : (refuse s).crc = s.crc := rfl
@[simp] theorem refuse_txp (s : State) : (refuse s).txp = s.txp := rfl
@[simp] theorem refuse_txPlen (s : State) : (refuse s).txPlen = s.txPlen := rfl
@[simp] theorem refuse_txf (s : State) : (refuse s).txf = s.txf := rfl
@[simp] theorem refuse_txFlen (s : State) : (refuse s).txFlen = s.txFlen := rfl
@[simp] theorem refuse_rxb (s : State) : (refuse s).rxb = s.rxb := rfl
@[simp] theorem refuse_rxCount (s : State) : (refuse s).rxCount = s.rxCount := rfl
@[simp] theorem refuse_rxNeed (s : State) : (refuse s).rxNeed = s.rxNeed := rfl
@[simp] theorem refuse_rdPhase (s : State) : (refuse s).rdPhase = s.rdPhase := rfl
@[simp] theorem refuse_rxValid (s : State) : (refuse s).rxValid = s.rxValid := rfl
@[simp] theorem refuse_rxKind (s : State) : (refuse s).rxKind = s.rxKind := rfl
@[simp] theorem refuse_rxSeq (s : State) : (refuse s).rxSeq = s.rxSeq := rfl
@[simp] theorem refuse_rxTotal (s : State) : (refuse s).rxTotal = s.rxTotal := rfl
@[simp] theorem refuse_rxLen (s : State) : (refuse s).rxLen = s.rxLen := rfl
@[simp] theorem refuse_txOvf (s : State) : (refuse s).txOvf = s.txOvf := rfl
@[simp] theorem refuse_cmdErr (s : State) : (refuse s).cmdErr = true := rfl
@[simp] theorem refuse_resp (s : State) : (refuse s).resp = some 0 := rfl
@[simp] theorem refuse_held (s : State) : (refuse s).held = s.held := rfl
@[simp] theorem refuse_chan (s : State) : (refuse s).chan = s.chan := rfl
@[simp] theorem refuse_inputs (s : State) : (refuse s).inputs = s.inputs := rfl

/-! `hold` (R143: a held command changes nothing of the block). -/

@[simp] theorem hold_crc (bs : List Byte) (s : State) : (hold bs s).crc = s.crc := rfl
@[simp] theorem hold_txp (bs : List Byte) (s : State) : (hold bs s).txp = s.txp := rfl
@[simp] theorem hold_txPlen (bs : List Byte) (s : State) : (hold bs s).txPlen = s.txPlen := rfl
@[simp] theorem hold_txf (bs : List Byte) (s : State) : (hold bs s).txf = s.txf := rfl
@[simp] theorem hold_txFlen (bs : List Byte) (s : State) : (hold bs s).txFlen = s.txFlen := rfl
@[simp] theorem hold_rxb (bs : List Byte) (s : State) : (hold bs s).rxb = s.rxb := rfl
@[simp] theorem hold_rxCount (bs : List Byte) (s : State) : (hold bs s).rxCount = s.rxCount := rfl
@[simp] theorem hold_rxNeed (bs : List Byte) (s : State) : (hold bs s).rxNeed = s.rxNeed := rfl
@[simp] theorem hold_rdPhase (bs : List Byte) (s : State) : (hold bs s).rdPhase = s.rdPhase := rfl
@[simp] theorem hold_rxValid (bs : List Byte) (s : State) : (hold bs s).rxValid = s.rxValid := rfl
@[simp] theorem hold_rxKind (bs : List Byte) (s : State) : (hold bs s).rxKind = s.rxKind := rfl
@[simp] theorem hold_rxSeq (bs : List Byte) (s : State) : (hold bs s).rxSeq = s.rxSeq := rfl
@[simp] theorem hold_rxTotal (bs : List Byte) (s : State) : (hold bs s).rxTotal = s.rxTotal := rfl
@[simp] theorem hold_rxLen (bs : List Byte) (s : State) : (hold bs s).rxLen = s.rxLen := rfl
@[simp] theorem hold_txOvf (bs : List Byte) (s : State) : (hold bs s).txOvf = s.txOvf := rfl
@[simp] theorem hold_cmdErr (bs : List Byte) (s : State) : (hold bs s).cmdErr = s.cmdErr := rfl
@[simp] theorem hold_resp (bs : List Byte) (s : State) : (hold bs s).resp = s.resp := rfl
@[simp] theorem hold_held (bs : List Byte) (s : State) : (hold bs s).held = s.held ++ [bs] := rfl
@[simp] theorem hold_chan (bs : List Byte) (s : State) : (hold bs s).chan = s.chan := rfl
@[simp] theorem hold_inputs (bs : List Byte) (s : State) : (hold bs s).inputs = s.inputs := rfl

/-! `readAbort` (R205: what a read abort changes and what it does not). -/

@[simp] theorem readAbort_crc (s : State) : (readAbort s).crc = s.crc := rfl
@[simp] theorem readAbort_txp (s : State) : (readAbort s).txp = s.txp := rfl
@[simp] theorem readAbort_txPlen (s : State) : (readAbort s).txPlen = s.txPlen := rfl
@[simp] theorem readAbort_txf (s : State) : (readAbort s).txf = s.txf := rfl
@[simp] theorem readAbort_txFlen (s : State) : (readAbort s).txFlen = s.txFlen := rfl
@[simp] theorem readAbort_rxb (s : State) : (readAbort s).rxb = s.rxb := rfl
@[simp] theorem readAbort_rxCount (s : State) : (readAbort s).rxCount = 0 := rfl
@[simp] theorem readAbort_rxNeed (s : State) : (readAbort s).rxNeed = ⟨9, by decide⟩ := rfl
@[simp] theorem readAbort_rdPhase (s : State) : (readAbort s).rdPhase = .idle := rfl
@[simp] theorem readAbort_rxValid (s : State) : (readAbort s).rxValid = s.rxValid := rfl
@[simp] theorem readAbort_rxKind (s : State) : (readAbort s).rxKind = s.rxKind := rfl
@[simp] theorem readAbort_rxSeq (s : State) : (readAbort s).rxSeq = s.rxSeq := rfl
@[simp] theorem readAbort_rxTotal (s : State) : (readAbort s).rxTotal = s.rxTotal := rfl
@[simp] theorem readAbort_rxLen (s : State) : (readAbort s).rxLen = s.rxLen := rfl
@[simp] theorem readAbort_txOvf (s : State) : (readAbort s).txOvf = s.txOvf := rfl
@[simp] theorem readAbort_cmdErr (s : State) : (readAbort s).cmdErr = s.cmdErr := rfl
@[simp] theorem readAbort_resp (s : State) : (readAbort s).resp = some 0 := rfl
@[simp] theorem readAbort_held (s : State) : (readAbort s).held = s.held := rfl
@[simp] theorem readAbort_chan (s : State) : (readAbort s).chan = s.chan := rfl
@[simp] theorem readAbort_inputs (s : State) : (readAbort s).inputs = s.inputs := rfl

/-! `readComplete` (R139: completion). -/

@[simp] theorem readComplete_crc (s : State) : (readComplete s).crc = s.crc := rfl
@[simp] theorem readComplete_txp (s : State) : (readComplete s).txp = s.txp := rfl
@[simp] theorem readComplete_txPlen (s : State) : (readComplete s).txPlen = s.txPlen := rfl
@[simp] theorem readComplete_txf (s : State) : (readComplete s).txf = s.txf := rfl
@[simp] theorem readComplete_txFlen (s : State) : (readComplete s).txFlen = s.txFlen := rfl
@[simp] theorem readComplete_rxb (s : State) : (readComplete s).rxb = s.rxb := rfl
@[simp] theorem readComplete_rxCount (s : State) : (readComplete s).rxCount = s.rxCount := rfl
@[simp] theorem readComplete_rxNeed (s : State) : (readComplete s).rxNeed = s.rxNeed := rfl
@[simp] theorem readComplete_rdPhase (s : State) : (readComplete s).rdPhase = .idle := rfl
@[simp] theorem readComplete_rxValid (s : State) : (readComplete s).rxValid = s.rxValid := rfl
@[simp] theorem readComplete_rxKind (s : State) : (readComplete s).rxKind = s.rxKind := rfl
@[simp] theorem readComplete_rxSeq (s : State) : (readComplete s).rxSeq = s.rxSeq := rfl
@[simp] theorem readComplete_rxTotal (s : State) : (readComplete s).rxTotal = s.rxTotal := rfl
@[simp] theorem readComplete_rxLen (s : State) : (readComplete s).rxLen = s.rxLen := rfl
@[simp] theorem readComplete_txOvf (s : State) : (readComplete s).txOvf = s.txOvf := rfl
@[simp] theorem readComplete_cmdErr (s : State) : (readComplete s).cmdErr = s.cmdErr := rfl
@[simp] theorem readComplete_resp (s : State) : (readComplete s).resp = some (BitVec.ofNat 16 s.rxCount.val) := rfl
@[simp] theorem readComplete_held (s : State) : (readComplete s).held = s.held := rfl
@[simp] theorem readComplete_chan (s : State) : (readComplete s).chan = s.chan := rfl
@[simp] theorem readComplete_inputs (s : State) : (readComplete s).inputs = s.inputs := rfl

/-! `clearDecoded` (R18: no frame). -/

@[simp] theorem clearDecoded_crc (s : State) : (clearDecoded s).crc = s.crc := rfl
@[simp] theorem clearDecoded_txp (s : State) : (clearDecoded s).txp = s.txp := rfl
@[simp] theorem clearDecoded_txPlen (s : State) : (clearDecoded s).txPlen = s.txPlen := rfl
@[simp] theorem clearDecoded_txf (s : State) : (clearDecoded s).txf = s.txf := rfl
@[simp] theorem clearDecoded_txFlen (s : State) : (clearDecoded s).txFlen = s.txFlen := rfl
@[simp] theorem clearDecoded_rxb (s : State) : (clearDecoded s).rxb = s.rxb := rfl
@[simp] theorem clearDecoded_rxCount (s : State) : (clearDecoded s).rxCount = s.rxCount := rfl
@[simp] theorem clearDecoded_rxNeed (s : State) : (clearDecoded s).rxNeed = s.rxNeed := rfl
@[simp] theorem clearDecoded_rdPhase (s : State) : (clearDecoded s).rdPhase = s.rdPhase := rfl
@[simp] theorem clearDecoded_rxValid (s : State) : (clearDecoded s).rxValid = false := rfl
@[simp] theorem clearDecoded_rxKind (s : State) : (clearDecoded s).rxKind = 0 := rfl
@[simp] theorem clearDecoded_rxSeq (s : State) : (clearDecoded s).rxSeq = 0 := rfl
@[simp] theorem clearDecoded_rxTotal (s : State) : (clearDecoded s).rxTotal = 0 := rfl
@[simp] theorem clearDecoded_rxLen (s : State) : (clearDecoded s).rxLen = 0 := rfl
@[simp] theorem clearDecoded_txOvf (s : State) : (clearDecoded s).txOvf = s.txOvf := rfl
@[simp] theorem clearDecoded_cmdErr (s : State) : (clearDecoded s).cmdErr = s.cmdErr := rfl
@[simp] theorem clearDecoded_resp (s : State) : (clearDecoded s).resp = s.resp := rfl
@[simp] theorem clearDecoded_held (s : State) : (clearDecoded s).held = s.held := rfl
@[simp] theorem clearDecoded_chan (s : State) : (clearDecoded s).chan = s.chan := rfl
@[simp] theorem clearDecoded_inputs (s : State) : (clearDecoded s).inputs = s.inputs := rfl

/-! `beginRead` (R136: a read starts). -/

@[simp] theorem beginRead_crc (s : State) : (beginRead s).crc = s.crc := rfl
@[simp] theorem beginRead_txp (s : State) : (beginRead s).txp = s.txp := rfl
@[simp] theorem beginRead_txPlen (s : State) : (beginRead s).txPlen = s.txPlen := rfl
@[simp] theorem beginRead_txf (s : State) : (beginRead s).txf = s.txf := rfl
@[simp] theorem beginRead_txFlen (s : State) : (beginRead s).txFlen = s.txFlen := rfl
@[simp] theorem beginRead_rxb (s : State) : (beginRead s).rxb = s.rxb := rfl
@[simp] theorem beginRead_rxCount (s : State) : (beginRead s).rxCount = 0 := rfl
@[simp] theorem beginRead_rxNeed (s : State) : (beginRead s).rxNeed = ⟨9, by decide⟩ := rfl
@[simp] theorem beginRead_rdPhase (s : State) : (beginRead s).rdPhase = .hdr := rfl
@[simp] theorem beginRead_rxValid (s : State) : (beginRead s).rxValid = false := rfl
@[simp] theorem beginRead_rxKind (s : State) : (beginRead s).rxKind = 0 := rfl
@[simp] theorem beginRead_rxSeq (s : State) : (beginRead s).rxSeq = 0 := rfl
@[simp] theorem beginRead_rxTotal (s : State) : (beginRead s).rxTotal = 0 := rfl
@[simp] theorem beginRead_rxLen (s : State) : (beginRead s).rxLen = 0 := rfl
@[simp] theorem beginRead_txOvf (s : State) : (beginRead s).txOvf = s.txOvf := rfl
@[simp] theorem beginRead_cmdErr (s : State) : (beginRead s).cmdErr = s.cmdErr := rfl
@[simp] theorem beginRead_resp (s : State) : (beginRead s).resp = none := rfl
@[simp] theorem beginRead_held (s : State) : (beginRead s).held = s.held := rfl
@[simp] theorem beginRead_chan (s : State) : (beginRead s).chan = s.chan := rfl
@[simp] theorem beginRead_inputs (s : State) : (beginRead s).inputs = s.inputs := rfl

/-! `appendBytes` (R137: the append). -/

@[simp] theorem appendBytes_crc (bs : List Byte) (s : State) : (appendBytes bs s).crc = s.crc := rfl
@[simp] theorem appendBytes_txp (bs : List Byte) (s : State) : (appendBytes bs s).txp = s.txp := rfl
@[simp] theorem appendBytes_txPlen (bs : List Byte) (s : State) : (appendBytes bs s).txPlen = s.txPlen := rfl
@[simp] theorem appendBytes_txf (bs : List Byte) (s : State) : (appendBytes bs s).txf = s.txf := rfl
@[simp] theorem appendBytes_txFlen (bs : List Byte) (s : State) : (appendBytes bs s).txFlen = s.txFlen := rfl
@[simp] theorem appendBytes_rxb (bs : List Byte) (s : State) : (appendBytes bs s).rxb = memWriteBytes s.rxb s.rxCount.val (bs.take (room s)) := rfl
@[simp] theorem appendBytes_rxCount (bs : List Byte) (s : State) : (appendBytes bs s).rxCount = ⟨s.rxCount.val + (bs.take (room s)).length, count_add_take_le bs s⟩ := rfl
@[simp] theorem appendBytes_rxNeed (bs : List Byte) (s : State) : (appendBytes bs s).rxNeed = s.rxNeed := rfl
@[simp] theorem appendBytes_rdPhase (bs : List Byte) (s : State) : (appendBytes bs s).rdPhase = s.rdPhase := rfl
@[simp] theorem appendBytes_rxValid (bs : List Byte) (s : State) : (appendBytes bs s).rxValid = s.rxValid := rfl
@[simp] theorem appendBytes_rxKind (bs : List Byte) (s : State) : (appendBytes bs s).rxKind = s.rxKind := rfl
@[simp] theorem appendBytes_rxSeq (bs : List Byte) (s : State) : (appendBytes bs s).rxSeq = s.rxSeq := rfl
@[simp] theorem appendBytes_rxTotal (bs : List Byte) (s : State) : (appendBytes bs s).rxTotal = s.rxTotal := rfl
@[simp] theorem appendBytes_rxLen (bs : List Byte) (s : State) : (appendBytes bs s).rxLen = s.rxLen := rfl
@[simp] theorem appendBytes_txOvf (bs : List Byte) (s : State) : (appendBytes bs s).txOvf = s.txOvf := rfl
@[simp] theorem appendBytes_cmdErr (bs : List Byte) (s : State) : (appendBytes bs s).cmdErr = s.cmdErr := rfl
@[simp] theorem appendBytes_resp (bs : List Byte) (s : State) : (appendBytes bs s).resp = s.resp := rfl
@[simp] theorem appendBytes_held (bs : List Byte) (s : State) : (appendBytes bs s).held = s.held := rfl
@[simp] theorem appendBytes_chan (bs : List Byte) (s : State) : (appendBytes bs s).chan = s.chan := rfl
@[simp] theorem appendBytes_inputs (bs : List Byte) (s : State) : (appendBytes bs s).inputs = s.inputs := rfl

/-! `resetBlock` (R220, R221: RESET). -/

@[simp] theorem resetBlock_crc (s : State) : (resetBlock s).crc = State.reset.crc := rfl
@[simp] theorem resetBlock_txp (s : State) : (resetBlock s).txp = State.reset.txp := rfl
@[simp] theorem resetBlock_txPlen (s : State) : (resetBlock s).txPlen = State.reset.txPlen := rfl
@[simp] theorem resetBlock_txf (s : State) : (resetBlock s).txf = State.reset.txf := rfl
@[simp] theorem resetBlock_txFlen (s : State) : (resetBlock s).txFlen = State.reset.txFlen := rfl
@[simp] theorem resetBlock_rxb (s : State) : (resetBlock s).rxb = State.reset.rxb := rfl
@[simp] theorem resetBlock_rxCount (s : State) : (resetBlock s).rxCount = State.reset.rxCount := rfl
@[simp] theorem resetBlock_rxNeed (s : State) : (resetBlock s).rxNeed = State.reset.rxNeed := rfl
@[simp] theorem resetBlock_rdPhase (s : State) : (resetBlock s).rdPhase = State.reset.rdPhase := rfl
@[simp] theorem resetBlock_rxValid (s : State) : (resetBlock s).rxValid = State.reset.rxValid := rfl
@[simp] theorem resetBlock_rxKind (s : State) : (resetBlock s).rxKind = State.reset.rxKind := rfl
@[simp] theorem resetBlock_rxSeq (s : State) : (resetBlock s).rxSeq = State.reset.rxSeq := rfl
@[simp] theorem resetBlock_rxTotal (s : State) : (resetBlock s).rxTotal = State.reset.rxTotal := rfl
@[simp] theorem resetBlock_rxLen (s : State) : (resetBlock s).rxLen = State.reset.rxLen := rfl
@[simp] theorem resetBlock_txOvf (s : State) : (resetBlock s).txOvf = State.reset.txOvf := rfl
@[simp] theorem resetBlock_cmdErr (s : State) : (resetBlock s).cmdErr = State.reset.cmdErr := rfl
@[simp] theorem resetBlock_resp (s : State) : (resetBlock s).resp = State.reset.resp := rfl
@[simp] theorem resetBlock_held (s : State) : (resetBlock s).held = State.reset.held := rfl
@[simp] theorem resetBlock_chan (s : State) : (resetBlock s).chan = s.chan := rfl
@[simp] theorem resetBlock_inputs (s : State) : (resetBlock s).inputs = s.inputs := rfl

/-! `storeFrame` (R103 to R106: an encoded frame is stored). -/

@[simp] theorem storeFrame_crc (kind : Byte) (seq total : Word) (p : List Byte) (hp : p.length ≤ Config.maxp) (s : State) : (storeFrame kind seq total p hp s).crc = s.crc := rfl
@[simp] theorem storeFrame_txp (kind : Byte) (seq total : Word) (p : List Byte) (hp : p.length ≤ Config.maxp) (s : State) : (storeFrame kind seq total p hp s).txp = s.txp := rfl
@[simp] theorem storeFrame_txPlen (kind : Byte) (seq total : Word) (p : List Byte) (hp : p.length ≤ Config.maxp) (s : State) : (storeFrame kind seq total p hp s).txPlen = s.txPlen := rfl
@[simp] theorem storeFrame_txf (kind : Byte) (seq total : Word) (p : List Byte) (hp : p.length ≤ Config.maxp) (s : State) : (storeFrame kind seq total p hp s).txf = memWriteBytes s.txf 0 (frameBytes kind seq total p) := rfl
@[simp] theorem storeFrame_rxb (kind : Byte) (seq total : Word) (p : List Byte) (hp : p.length ≤ Config.maxp) (s : State) : (storeFrame kind seq total p hp s).rxb = s.rxb := rfl
@[simp] theorem storeFrame_rxCount (kind : Byte) (seq total : Word) (p : List Byte) (hp : p.length ≤ Config.maxp) (s : State) : (storeFrame kind seq total p hp s).rxCount = s.rxCount := rfl
@[simp] theorem storeFrame_rxNeed (kind : Byte) (seq total : Word) (p : List Byte) (hp : p.length ≤ Config.maxp) (s : State) : (storeFrame kind seq total p hp s).rxNeed = s.rxNeed := rfl
@[simp] theorem storeFrame_rdPhase (kind : Byte) (seq total : Word) (p : List Byte) (hp : p.length ≤ Config.maxp) (s : State) : (storeFrame kind seq total p hp s).rdPhase = s.rdPhase := rfl
@[simp] theorem storeFrame_rxValid (kind : Byte) (seq total : Word) (p : List Byte) (hp : p.length ≤ Config.maxp) (s : State) : (storeFrame kind seq total p hp s).rxValid = s.rxValid := rfl
@[simp] theorem storeFrame_rxKind (kind : Byte) (seq total : Word) (p : List Byte) (hp : p.length ≤ Config.maxp) (s : State) : (storeFrame kind seq total p hp s).rxKind = s.rxKind := rfl
@[simp] theorem storeFrame_rxSeq (kind : Byte) (seq total : Word) (p : List Byte) (hp : p.length ≤ Config.maxp) (s : State) : (storeFrame kind seq total p hp s).rxSeq = s.rxSeq := rfl
@[simp] theorem storeFrame_rxTotal (kind : Byte) (seq total : Word) (p : List Byte) (hp : p.length ≤ Config.maxp) (s : State) : (storeFrame kind seq total p hp s).rxTotal = s.rxTotal := rfl
@[simp] theorem storeFrame_rxLen (kind : Byte) (seq total : Word) (p : List Byte) (hp : p.length ≤ Config.maxp) (s : State) : (storeFrame kind seq total p hp s).rxLen = s.rxLen := rfl
@[simp] theorem storeFrame_txOvf (kind : Byte) (seq total : Word) (p : List Byte) (hp : p.length ≤ Config.maxp) (s : State) : (storeFrame kind seq total p hp s).txOvf = s.txOvf := rfl
@[simp] theorem storeFrame_cmdErr (kind : Byte) (seq total : Word) (p : List Byte) (hp : p.length ≤ Config.maxp) (s : State) : (storeFrame kind seq total p hp s).cmdErr = s.cmdErr := rfl
@[simp] theorem storeFrame_resp (kind : Byte) (seq total : Word) (p : List Byte) (hp : p.length ≤ Config.maxp) (s : State) : (storeFrame kind seq total p hp s).resp = none := rfl
@[simp] theorem storeFrame_held (kind : Byte) (seq total : Word) (p : List Byte) (hp : p.length ≤ Config.maxp) (s : State) : (storeFrame kind seq total p hp s).held = s.held := rfl
@[simp] theorem storeFrame_chan (kind : Byte) (seq total : Word) (p : List Byte) (hp : p.length ≤ Config.maxp) (s : State) : (storeFrame kind seq total p hp s).chan = s.chan := rfl
@[simp] theorem storeFrame_inputs (kind : Byte) (seq total : Word) (p : List Byte) (hp : p.length ≤ Config.maxp) (s : State) : (storeFrame kind seq total p hp s).inputs = s.inputs := rfl
@[simp] theorem storeFrame_txFlen (kind : Byte) (seq total : Word) (p : List Byte) (hp : p.length ≤ Config.maxp) (s : State) :
    (storeFrame kind seq total p hp s).txFlen.val = 9 + p.length := frameBytes_length kind seq total p

/-! `awaitPayload` (R137: a data-bearing header that fits). -/

@[simp] theorem awaitPayload_crc (s : State) (h : announced s ≤ Config.rxcap) : (awaitPayload s h).crc = s.crc := rfl
@[simp] theorem awaitPayload_txp (s : State) (h : announced s ≤ Config.rxcap) : (awaitPayload s h).txp = s.txp := rfl
@[simp] theorem awaitPayload_txPlen (s : State) (h : announced s ≤ Config.rxcap) : (awaitPayload s h).txPlen = s.txPlen := rfl
@[simp] theorem awaitPayload_txf (s : State) (h : announced s ≤ Config.rxcap) : (awaitPayload s h).txf = s.txf := rfl
@[simp] theorem awaitPayload_txFlen (s : State) (h : announced s ≤ Config.rxcap) : (awaitPayload s h).txFlen = s.txFlen := rfl
@[simp] theorem awaitPayload_rxb (s : State) (h : announced s ≤ Config.rxcap) : (awaitPayload s h).rxb = s.rxb := rfl
@[simp] theorem awaitPayload_rxCount (s : State) (h : announced s ≤ Config.rxcap) : (awaitPayload s h).rxCount = s.rxCount := rfl
@[simp] theorem awaitPayload_rxNeed (s : State) (h : announced s ≤ Config.rxcap) : (awaitPayload s h).rxNeed = ⟨announced s, Nat.lt_succ_of_le h⟩ := rfl
@[simp] theorem awaitPayload_rdPhase (s : State) (h : announced s ≤ Config.rxcap) : (awaitPayload s h).rdPhase = .pay := rfl
@[simp] theorem awaitPayload_rxValid (s : State) (h : announced s ≤ Config.rxcap) : (awaitPayload s h).rxValid = s.rxValid := rfl
@[simp] theorem awaitPayload_rxKind (s : State) (h : announced s ≤ Config.rxcap) : (awaitPayload s h).rxKind = s.rxKind := rfl
@[simp] theorem awaitPayload_rxSeq (s : State) (h : announced s ≤ Config.rxcap) : (awaitPayload s h).rxSeq = s.rxSeq := rfl
@[simp] theorem awaitPayload_rxTotal (s : State) (h : announced s ≤ Config.rxcap) : (awaitPayload s h).rxTotal = s.rxTotal := rfl
@[simp] theorem awaitPayload_rxLen (s : State) (h : announced s ≤ Config.rxcap) : (awaitPayload s h).rxLen = s.rxLen := rfl
@[simp] theorem awaitPayload_txOvf (s : State) (h : announced s ≤ Config.rxcap) : (awaitPayload s h).txOvf = s.txOvf := rfl
@[simp] theorem awaitPayload_cmdErr (s : State) (h : announced s ≤ Config.rxcap) : (awaitPayload s h).cmdErr = s.cmdErr := rfl
@[simp] theorem awaitPayload_resp (s : State) (h : announced s ≤ Config.rxcap) : (awaitPayload s h).resp = s.resp := rfl
@[simp] theorem awaitPayload_held (s : State) (h : announced s ≤ Config.rxcap) : (awaitPayload s h).held = s.held := rfl
@[simp] theorem awaitPayload_chan (s : State) (h : announced s ≤ Config.rxcap) : (awaitPayload s h).chan = s.chan := rfl
@[simp] theorem awaitPayload_inputs (s : State) (h : announced s ≤ Config.rxcap) : (awaitPayload s h).inputs = s.inputs := rfl

/-! `putBack` (R137: what the block does not take stays in the channel) changes the channel only. -/

@[simp] theorem putBack_crc (bs : List Byte) (s : State) : (putBack bs s).crc = s.crc := by
  unfold putBack; split <;> rfl
@[simp] theorem putBack_txp (bs : List Byte) (s : State) : (putBack bs s).txp = s.txp := by
  unfold putBack; split <;> rfl
@[simp] theorem putBack_txPlen (bs : List Byte) (s : State) : (putBack bs s).txPlen = s.txPlen := by
  unfold putBack; split <;> rfl
@[simp] theorem putBack_txf (bs : List Byte) (s : State) : (putBack bs s).txf = s.txf := by
  unfold putBack; split <;> rfl
@[simp] theorem putBack_txFlen (bs : List Byte) (s : State) : (putBack bs s).txFlen = s.txFlen := by
  unfold putBack; split <;> rfl
@[simp] theorem putBack_rxb (bs : List Byte) (s : State) : (putBack bs s).rxb = s.rxb := by
  unfold putBack; split <;> rfl
@[simp] theorem putBack_rxCount (bs : List Byte) (s : State) : (putBack bs s).rxCount = s.rxCount := by
  unfold putBack; split <;> rfl
@[simp] theorem putBack_rxNeed (bs : List Byte) (s : State) : (putBack bs s).rxNeed = s.rxNeed := by
  unfold putBack; split <;> rfl
@[simp] theorem putBack_rdPhase (bs : List Byte) (s : State) : (putBack bs s).rdPhase = s.rdPhase := by
  unfold putBack; split <;> rfl
@[simp] theorem putBack_rxValid (bs : List Byte) (s : State) : (putBack bs s).rxValid = s.rxValid := by
  unfold putBack; split <;> rfl
@[simp] theorem putBack_rxKind (bs : List Byte) (s : State) : (putBack bs s).rxKind = s.rxKind := by
  unfold putBack; split <;> rfl
@[simp] theorem putBack_rxSeq (bs : List Byte) (s : State) : (putBack bs s).rxSeq = s.rxSeq := by
  unfold putBack; split <;> rfl
@[simp] theorem putBack_rxTotal (bs : List Byte) (s : State) : (putBack bs s).rxTotal = s.rxTotal := by
  unfold putBack; split <;> rfl
@[simp] theorem putBack_rxLen (bs : List Byte) (s : State) : (putBack bs s).rxLen = s.rxLen := by
  unfold putBack; split <;> rfl
@[simp] theorem putBack_txOvf (bs : List Byte) (s : State) : (putBack bs s).txOvf = s.txOvf := by
  unfold putBack; split <;> rfl
@[simp] theorem putBack_cmdErr (bs : List Byte) (s : State) : (putBack bs s).cmdErr = s.cmdErr := by
  unfold putBack; split <;> rfl
@[simp] theorem putBack_resp (bs : List Byte) (s : State) : (putBack bs s).resp = s.resp := by
  unfold putBack; split <;> rfl
@[simp] theorem putBack_held (bs : List Byte) (s : State) : (putBack bs s).held = s.held := by
  unfold putBack; split <;> rfl
@[simp] theorem putBack_inputs (bs : List Byte) (s : State) : (putBack bs s).inputs = s.inputs := by
  unfold putBack; split <;> rfl

/-! `stayInChannel` (R203: bytes that arrive while idle stay in the channel) changes the channel only. -/

@[simp] theorem stayInChannel_crc (bs : List Byte) (s : State) : (stayInChannel bs s).crc = s.crc := by
  unfold stayInChannel; split <;> rfl
@[simp] theorem stayInChannel_txp (bs : List Byte) (s : State) : (stayInChannel bs s).txp = s.txp := by
  unfold stayInChannel; split <;> rfl
@[simp] theorem stayInChannel_txPlen (bs : List Byte) (s : State) : (stayInChannel bs s).txPlen = s.txPlen := by
  unfold stayInChannel; split <;> rfl
@[simp] theorem stayInChannel_txf (bs : List Byte) (s : State) : (stayInChannel bs s).txf = s.txf := by
  unfold stayInChannel; split <;> rfl
@[simp] theorem stayInChannel_txFlen (bs : List Byte) (s : State) : (stayInChannel bs s).txFlen = s.txFlen := by
  unfold stayInChannel; split <;> rfl
@[simp] theorem stayInChannel_rxb (bs : List Byte) (s : State) : (stayInChannel bs s).rxb = s.rxb := by
  unfold stayInChannel; split <;> rfl
@[simp] theorem stayInChannel_rxCount (bs : List Byte) (s : State) : (stayInChannel bs s).rxCount = s.rxCount := by
  unfold stayInChannel; split <;> rfl
@[simp] theorem stayInChannel_rxNeed (bs : List Byte) (s : State) : (stayInChannel bs s).rxNeed = s.rxNeed := by
  unfold stayInChannel; split <;> rfl
@[simp] theorem stayInChannel_rdPhase (bs : List Byte) (s : State) : (stayInChannel bs s).rdPhase = s.rdPhase := by
  unfold stayInChannel; split <;> rfl
@[simp] theorem stayInChannel_rxValid (bs : List Byte) (s : State) : (stayInChannel bs s).rxValid = s.rxValid := by
  unfold stayInChannel; split <;> rfl
@[simp] theorem stayInChannel_rxKind (bs : List Byte) (s : State) : (stayInChannel bs s).rxKind = s.rxKind := by
  unfold stayInChannel; split <;> rfl
@[simp] theorem stayInChannel_rxSeq (bs : List Byte) (s : State) : (stayInChannel bs s).rxSeq = s.rxSeq := by
  unfold stayInChannel; split <;> rfl
@[simp] theorem stayInChannel_rxTotal (bs : List Byte) (s : State) : (stayInChannel bs s).rxTotal = s.rxTotal := by
  unfold stayInChannel; split <;> rfl
@[simp] theorem stayInChannel_rxLen (bs : List Byte) (s : State) : (stayInChannel bs s).rxLen = s.rxLen := by
  unfold stayInChannel; split <;> rfl
@[simp] theorem stayInChannel_txOvf (bs : List Byte) (s : State) : (stayInChannel bs s).txOvf = s.txOvf := by
  unfold stayInChannel; split <;> rfl
@[simp] theorem stayInChannel_cmdErr (bs : List Byte) (s : State) : (stayInChannel bs s).cmdErr = s.cmdErr := by
  unfold stayInChannel; split <;> rfl
@[simp] theorem stayInChannel_resp (bs : List Byte) (s : State) : (stayInChannel bs s).resp = s.resp := by
  unfold stayInChannel; split <;> rfl
@[simp] theorem stayInChannel_held (bs : List Byte) (s : State) : (stayInChannel bs s).held = s.held := by
  unfold stayInChannel; split <;> rfl
@[simp] theorem stayInChannel_inputs (bs : List Byte) (s : State) : (stayInChannel bs s).inputs = s.inputs := by
  unfold stayInChannel; split <;> rfl

@[simp] theorem putBack_nil (s : State) : putBack [] s = s := rfl

@[simp] theorem stayInChannel_nil (s : State) : stayInChannel [] s = s := rfl

@[simp] theorem putBack_room (bs : List Byte) (s : State) : room (putBack bs s) = room s := by simp [room]

end Sys2Proof.Machine
end

