-- ==== Sys2Proof/Laws/Ops.lean ====
section
/-! SUPPORT. One lemma per shared operation: everything it can do. A proof about an instruction cites these instead of
unfolding the operation. -/
namespace Sys2Proof.Machine

/-! The checksum at R6's parameters: bytes enter as they are, the register is handed out as it is. -/

@[simp] theorem crcInput_eq (b : Byte) : crcInput b = b := rfl
@[simp] theorem crcOutput_eq (c : Word) : crcOutput c = c := by simp [crcOutput, Config.crcReflectOut, Config.crcFinalXor]

/-- `crc16` is the plain fold of the byte step (R91). -/
theorem crc16_eq (bs : List Byte) : crc16 bs = bs.foldl crcUpdate Config.crcInit := crcOutput_eq _

/-! The command port (R143). -/

theorem atPort_idle {s : State} (h : s.rdPhase = .idle) (bytes : List Byte) (run : State → State) :
    atPort bytes run s = run s := by simp [atPort, h]

theorem atPort_busy {s : State} (h : s.rdPhase ≠ .idle) (bytes : List Byte) (run : State → State) :
    atPort bytes run s = hold bytes s := by simp [atPort, h]

/-- A command at the port runs or is held, nothing else. -/
theorem atPort_cases (bytes : List Byte) (run : State → State) (s : State) :
    (s.rdPhase = .idle ∧ atPort bytes run s = run s) ∨ (s.rdPhase ≠ .idle ∧ atPort bytes run s = hold bytes s) := by
  by_cases h : s.rdPhase = .idle
  · exact .inl ⟨h, atPort_idle h bytes run⟩
  · exact .inr ⟨h, atPort_busy h bytes run⟩

/-- A command whose operand names something answers it, any other is refused (R161 (c) to (e)). -/
theorem answerOperand_cases (v : Option Word) (s : State) :
    (∃ w, v = some w ∧ answerOperand v s = answer w s) ∨ (v = none ∧ answerOperand v s = refuse s) := by
  cases v with
  | none => exact .inr ⟨rfl, rfl⟩
  | some w => exact .inl ⟨w, rfl, rfl⟩

/-- A push appends the byte or is dropped with `tx_ovf` set (R102). -/
theorem pushByte_cases (b : Byte) (s : State) :
    (∃ h : s.txPlen.val < Config.maxp, pushByte b s =
      silent { s with txp := memWrite s.txp s.txPlen.val b, txPlen := ⟨s.txPlen.val + 1, by omega⟩ }) ∨
    (¬ s.txPlen.val < Config.maxp ∧ pushByte b s = silent (setTxOvf s)) := by
  by_cases h : s.txPlen.val < Config.maxp
  · exact .inl ⟨h, by simp [pushByte, h]⟩
  · exact .inr ⟨h, by simp [pushByte, h]⟩

/-! The reader (R137 to R141). -/

/-- The completion test ends the read or leaves it waiting (R139). -/
theorem completionTest_cases (s : State) :
    (s.rdPhase = .pay ∧ s.rxNeed.val ≤ s.rxCount.val ∧ completionTest s = readComplete s) ∨
    (¬ (s.rdPhase = .pay ∧ s.rxNeed.val ≤ s.rxCount.val) ∧ completionTest s = silent s) := by
  by_cases h : s.rdPhase = .pay ∧ s.rxNeed.val ≤ s.rxCount.val
  · exact .inl ⟨h.1, h.2, if_pos h⟩
  · exact .inr ⟨h, if_neg h⟩

/-- A header that is not data-bearing ends the read, one that cannot fit aborts it, any other sets what is needed (R138). -/
theorem inspectHeader_cases (s : State) :
    (memRead s.rxb 2 ≠ Config.kData ∧ inspectHeader s = readComplete s) ∨
    (memRead s.rxb 2 = Config.kData ∧ Config.rxcap < announced s ∧ inspectHeader s = readAbort s) ∨
    (memRead s.rxb 2 = Config.kData ∧ ∃ h : announced s ≤ Config.rxcap,
      inspectHeader s = completionTest (awaitPayload s h)) := by
  by_cases hk : memRead s.rxb 2 = Config.kData
  · by_cases h : announced s ≤ Config.rxcap
    · exact .inr (.inr ⟨hk, h, by simp [inspectHeader, hk, h]⟩)
    · exact .inr (.inl ⟨hk, by omega, by simp [inspectHeader, hk, h]⟩)
  · exact .inl ⟨hk, by simp [inspectHeader, hk]⟩

theorem afterAppend_cases (s : State) :
    (s.rdPhase = .hdr ∧ Config.hdr ≤ s.rxCount.val ∧ afterAppend s = inspectHeader s) ∨
    (¬ (s.rdPhase = .hdr ∧ Config.hdr ≤ s.rxCount.val) ∧ afterAppend s = completionTest s) := by
  by_cases h : s.rdPhase = .hdr ∧ Config.hdr ≤ s.rxCount.val
  · exact .inl ⟨h.1, h.2, if_pos h⟩
  · exact .inr ⟨h, if_neg h⟩

/-- Bytes from the channel stay there, count as a timeout, or are a burst (R137, R147, R203). -/
theorem receive_cases (bs : List Byte) (s : State) :
    (s.rdPhase = .idle ∧ receive bs s = stayInChannel bs s) ∨
    (s.rdPhase ≠ .idle ∧ bs.take (room s) = [] ∧ receive bs s = readAbort (putBack (bs.drop (room s)) s)) ∨
    (s.rdPhase ≠ .idle ∧ bs.take (room s) ≠ [] ∧ receive bs s = rxBurst bs (putBack (bs.drop (room s)) s)) := by
  by_cases h : s.rdPhase = .idle
  · exact .inl ⟨h, by simp [receive, h]⟩
  · by_cases ht : bs.take (room s) = []
    · exact .inr (.inl ⟨h, ht, by simp only [receive, h, if_false, ht, if_true]⟩)
    · exact .inr (.inr ⟨h, ht, by simp only [receive, h, if_false, ht]⟩)

/-- A burst that fits is taken whole (R137: `1 <= |bs| <= min(RX_BURST_MAX, RXCAP - rx_count)`). -/
theorem receive_fits {bs : List Byte} {s : State} (hb : s.rdPhase ≠ .idle) (hne : bs ≠ []) (hf : bs.length ≤ room s) :
    receive bs s = rxBurst bs s := by
  have ht : bs.take (room s) = bs := List.take_of_length_le hf
  have hd : bs.drop (room s) = [] := List.drop_of_length_le hf
  simp only [receive, hb, if_false, ht, hne, hd, putBack_nil]

/-- A burst is taken only as far as there is room (R137). -/
theorem rxBurst_take (bs : List Byte) (s : State) : rxBurst (bs.take (room s)) s = rxBurst bs s := by
  unfold rxBurst
  congr 1
  simp [appendBytes, List.take_take]

/-- RX_BURST_MAX is RXCAP, so the room is what the buffer can still hold (R6, R137). -/
theorem room_eq (s : State) : room s = Config.rxcap - s.rxCount.val := by
  simp only [room, Config.rxBurstMax]; omega

/-! What the reader's operations can change: its own fields and nothing else. -/

theorem completionTest_only (s : State) :
    ∃ c n p r, completionTest s = { s with rxCount := c, rxNeed := n, rdPhase := p, resp := r } := by
  rcases completionTest_cases s with ⟨_, _, e⟩ | ⟨_, e⟩ <;> rw [e]
  · exact ⟨s.rxCount, s.rxNeed, _, _, rfl⟩
  · exact ⟨s.rxCount, s.rxNeed, s.rdPhase, _, rfl⟩

theorem afterAppend_only (s : State) :
    ∃ c n p r, afterAppend s = { s with rxCount := c, rxNeed := n, rdPhase := p, resp := r } := by
  rcases afterAppend_cases s with ⟨_, _, e⟩ | ⟨_, e⟩ <;> rw [e]
  · rcases inspectHeader_cases s with ⟨_, e⟩ | ⟨_, _, e⟩ | ⟨_, h, e⟩ <;> rw [e]
    · exact ⟨s.rxCount, s.rxNeed, _, _, rfl⟩
    · exact ⟨_, _, _, _, rfl⟩
    · obtain ⟨c, n, p, r, e⟩ := completionTest_only (awaitPayload s h)
      exact ⟨c, n, p, r, e⟩
  · exact completionTest_only s

/-- A burst writes the buffer from `rx_count` on, and the reader's counters, phase and response. -/
theorem rxBurst_only (bs : List Byte) (s : State) : ∃ c n p r, rxBurst bs s =
    { s with rxb := memWriteBytes s.rxb s.rxCount.val (bs.take (room s)), rxCount := c, rxNeed := n, rdPhase := p, resp := r } := by
  obtain ⟨c, n, p, r, e⟩ := afterAppend_only (appendBytes bs s)
  exact ⟨c, n, p, r, e⟩

/-- Whatever the channel has changes the reader and the channel and nothing else. -/
theorem receive_only (bs : List Byte) (s : State) : ∃ m c n p r ch, receive bs s =
    { s with rxb := m, rxCount := c, rxNeed := n, rdPhase := p, resp := r, chan := ch } := by
  rcases receive_cases bs s with ⟨_, e⟩ | ⟨_, _, e⟩ | ⟨_, _, e⟩ <;> rw [e]
  · unfold stayInChannel; split
    · exact ⟨_, _, _, _, _, _, rfl⟩
    · exact ⟨s.rxb, s.rxCount, s.rxNeed, s.rdPhase, s.resp, _, rfl⟩
  · unfold putBack; split
    · exact ⟨s.rxb, _, _, _, _, s.chan, rfl⟩
    · exact ⟨s.rxb, _, _, _, _, _, rfl⟩
  · obtain ⟨c, n, p, r, e⟩ := rxBurst_only bs (putBack (bs.drop (room s)) s)
    rw [e]
    unfold putBack; split
    · exact ⟨_, c, n, p, r, s.chan, rfl⟩
    · exact ⟨_, c, n, p, r, _, rfl⟩

/-! The encoder's store (R103 to R106). -/

/-- The stored frame reads back whole. -/
theorem storeFrame_slice (kind : Byte) (seq total : Word) (p : List Byte) (hp : p.length ≤ Config.maxp) {s : State}
    (hw : Memory.wf s.txf = true) :
    memSlice (storeFrame kind seq total p hp s).txf 0 (9 + p.length) = frameBytes kind seq total p := by
  have h := memSlice_memWriteBytes hw 0 (frameBytes kind seq total p)
  rw [frameBytes_length] at h
  simpa using h

/-- Bytes of `txf` beyond the frame stay. -/
theorem storeFrame_outside (kind : Byte) (seq total : Word) (p : List Byte) (hp : p.length ≤ Config.maxp) (s : State)
    {a : Nat} (ha : 9 + p.length ≤ a) : memRead (storeFrame kind seq total p hp s).txf a = memRead s.txf a := by
  have h := memRead_memWriteBytes_outside s.txf 0 (frameBytes kind seq total p) (x := a)
    (by rw [frameBytes_length]; omega)
  simpa using h

/-- An encoded frame is the wire frame of its fields with the checksum of the rest (R61, R100). -/
theorem frameBytes_eq_wireBytes (kind : Byte) (seq total : Word) (p : List Byte) : frameBytes kind seq total p =
    wireBytes (crc16 (frameBody kind seq total p)) kind seq total (BitVec.ofNat 16 p.length) p := by
  simp [frameBytes, frameBody, wireBytes]

end Sys2Proof.Machine
end

