-- ==== Sys2Proof/Laws/PerInstr.lean ====
section
/-! SUPPORT. The family `EncodeWidth`: for each instruction, how many bytes the opcode table gives its word (`30_encoding.md` R73,
R62), and that its encoding has that many. -/
namespace Sys2Proof.Laws.EncodeWidth

/-- The byte count of the table's row: R73's `bytes` column for a command, `9 + length` for a frame. -/
def tableWidth : Instr → Nat
  | .crcClr | .txpClr | .encErr | .readFrame | .decode => 1
  | .rdreg _ | .crcUpd _ | .txpPush _ => 2
  | .txfRd _ | .rxbRd _ => 3
  | .encData _ _ | .encAck _ _ | .encNack _ _ => 5
  | .dataSend _ _ _ p => 9 + p.length
  | .ack _ _ _ | .nack _ _ _ | .err _ _ _ => 9

/-- The encoding is as long as the table says. -/
def Statement (i : Instr) : Prop := (encode i).length = tableWidth i

theorem rdreg (n : Byte) : Statement (.rdreg n) := rfl
theorem crcClr : Statement .crcClr := rfl
theorem crcUpd (b : Byte) : Statement (.crcUpd b) := rfl
theorem txpClr : Statement .txpClr := rfl
theorem txpPush (b : Byte) : Statement (.txpPush b) := rfl
theorem encData (s t : Word) : Statement (.encData s t) := rfl
theorem encAck (s t : Word) : Statement (.encAck s t) := rfl
theorem encNack (s t : Word) : Statement (.encNack s t) := rfl
theorem encErr : Statement .encErr := rfl
theorem txfRd (i : Word) : Statement (.txfRd i) := rfl
theorem readFrame : Statement .readFrame := rfl
theorem decode : Statement .decode := rfl
theorem rxbRd (i : Word) : Statement (.rxbRd i) := rfl
theorem dataSend (checksum sequence total : Word) (payload : List Byte) :
    Statement (.dataSend checksum sequence total payload) := by
  simp [Statement, encode, tableWidth]
theorem ack (checksum sequence total : Word) : Statement (.ack checksum sequence total) := rfl
theorem nack (checksum sequence total : Word) : Statement (.nack checksum sequence total) := rfl
theorem err (checksum sequence total : Word) : Statement (.err checksum sequence total) := rfl

end Sys2Proof.Laws.EncodeWidth
end

