-- ==== Sys2Proof/Laws/Step.lean ====
section
/-! SUPPORT. Everything a step can do, said once (`step_cases`), and that no instruction stops the machine. -/
namespace Sys2Proof.Machine

/-- The two states differ at most in what waits at the port, in the channel, and outside. -/
def SameBlock (s u : State) : Prop := u = { s with held := u.held, chan := u.chan, inputs := u.inputs }

theorem SameBlock.refl (s : State) : SameBlock s s := rfl

/-- The instruction's next state: every meaning answers one (R200: no exceptional outcome is a trap). -/
theorem exec_isNext (i : Instr) (s : State) : ∃ t, exec i s = .next t := by
  cases i <;> exact ⟨_, rfl⟩

/-- A wire frame as an instruction is the arrival of its bytes. -/
theorem exec_wireFrame {i : Instr} (h : i.space = .wireFrame) (s : State) : exec i s = .next (receive (encode i) s) := by
  cases i <;> first | rfl | cases h

/-- What the next turn is (R50, R51, R204). -/
theorem nextTurn_cases (s : State) :
    (nextTurn s = .wait) ∨
    (∃ rest, s.inputs = .reset :: rest ∧ nextTurn s = .event (resetBlock { s with inputs := rest })) ∨
    (∃ rest, s.inputs = .rxTimeout :: rest ∧ nextTurn s = .event (rxTimeout { s with inputs := rest })) ∨
    (∃ bytes u, SameBlock s u ∧ nextTurn s = .command bytes u) ∨
    (∃ bytes u, SameBlock s u ∧ nextTurn s = .burst bytes u) := by
  have input : ∀ {x : List Input}, s.inputs = x → (∀ r, x ≠ .reset :: r) → (∀ r, x ≠ .rxTimeout :: r) →
      nextInput s = .wait ∨ (∃ bytes u, SameBlock s u ∧ nextInput s = .command bytes u) ∨
        (∃ bytes u, SameBlock s u ∧ nextInput s = .burst bytes u) := by
    intro x hx h1 h2
    unfold nextInput
    rw [hx]
    rcases x with _ | ⟨_ | _ | _ | _, rest⟩
    · exact .inl rfl
    · exact .inr (.inl ⟨_, { s with inputs := rest }, rfl, rfl⟩)
    · exact .inr (.inr ⟨_, { s with inputs := rest }, rfl, rfl⟩)
    · exact absurd rfl (h2 rest)
    · exact absurd rfl (h1 rest)
  have other : (∀ r, s.inputs ≠ .reset :: r) → (∀ r, s.inputs ≠ .rxTimeout :: r) →
      (nextTurn s = .wait) ∨ (∃ bytes u, SameBlock s u ∧ nextTurn s = .command bytes u) ∨
        (∃ bytes u, SameBlock s u ∧ nextTurn s = .burst bytes u) := by
    intro h1 h2
    have e : nextTurn s = if s.rdPhase = .idle then idleTurn s else busyTurn s := by
      unfold nextTurn
      split
      · rename_i r hr; exact absurd hr (h1 r)
      · rename_i r hr; exact absurd hr (h2 r)
      · rfl
    rw [e]
    split
    · unfold idleTurn
      split
      · rename_i b r _; exact .inr (.inl ⟨b, { s with held := r }, rfl, rfl⟩)
      · exact input rfl h1 h2
    · unfold busyTurn
      split
      · rename_i b r _; exact .inr (.inr ⟨b, { s with chan := r }, rfl, rfl⟩)
      · exact input rfl h1 h2
  by_cases h1 : ∃ r, s.inputs = .reset :: r
  · obtain ⟨r, hr⟩ := h1
    exact .inr (.inl ⟨r, hr, by simp [nextTurn, nextInput, hr]⟩)
  · by_cases h2 : ∃ r, s.inputs = .rxTimeout :: r
    · obtain ⟨r, hr⟩ := h2
      exact .inr (.inr (.inl ⟨r, hr, by simp [nextTurn, nextInput, hr]⟩))
    · rcases other (fun r e => h1 ⟨r, e⟩) (fun r e => h2 ⟨r, e⟩) with h | h | h
      · exact .inl h
      · exact .inr (.inr (.inr (.inl h)))
      · exact .inr (.inr (.inr (.inr h)))

/-- Everything a step can do: wait, RESET, time out, run a command, refuse or hold what is no command, run a frame's arrival,
receive other bytes. -/
theorem step_cases {s t : State} (h : step s = .next t) :
    (t = s) ∨
    (∃ rest, s.inputs = .reset :: rest ∧ t = resetBlock { s with inputs := rest }) ∨
    (∃ rest, s.inputs = .rxTimeout :: rest ∧ t = rxTimeout { s with inputs := rest }) ∨
    (∃ bytes i u, SameBlock s u ∧ decodeCommand bytes = .ok i ∧ exec i u = .next t) ∨
    (∃ bytes u, SameBlock s u ∧ t = malformed bytes u) ∨
    (∃ bytes i u, SameBlock s u ∧ decodeFrame bytes = .ok i ∧ exec i u = .next t) ∨
    (∃ bytes u, SameBlock s u ∧ t = receive bytes u) := by
  rcases nextTurn_cases s with e | ⟨rest, hr, e⟩ | ⟨rest, hr, e⟩ | ⟨bytes, u, hu, e⟩ | ⟨bytes, u, hu, e⟩
  · simp only [step, e, Host.Outcome.next.injEq] at h
    exact .inl h.symm
  · simp only [step, e, Host.Outcome.next.injEq] at h
    exact .inr (.inl ⟨rest, hr, h.symm⟩)
  · simp only [step, e, Host.Outcome.next.injEq] at h
    exact .inr (.inr (.inl ⟨rest, hr, h.symm⟩))
  · simp only [step, e] at h
    cases hd : decodeCommand bytes with
    | ok i => rw [hd] at h; exact .inr (.inr (.inr (.inl ⟨bytes, i, u, hu, hd, h⟩)))
    | error _ =>
      rw [hd] at h
      simp only [Host.Outcome.next.injEq] at h
      exact .inr (.inr (.inr (.inr (.inl ⟨bytes, u, hu, h.symm⟩))))
  · simp only [step, e] at h
    cases hd : decodeFrame bytes with
    | ok i => rw [hd] at h; exact .inr (.inr (.inr (.inr (.inr (.inl ⟨bytes, i, u, hu, hd, h⟩)))))
    | error _ =>
      rw [hd] at h
      simp only [Host.Outcome.next.injEq] at h
      exact .inr (.inr (.inr (.inr (.inr (.inr ⟨bytes, u, hu, h.symm⟩)))))

end Sys2Proof.Machine
end

