-- ==== Sys2Proof/Laws/Pseudo.lean ====
section
/-! SUPPORT. What the pseudo-operations' parts (R77) and the receiver's turn (R179) do, for an idle block. -/
namespace Sys2Proof.Machine

/-- A register in range is answered, nothing else changes (R160). -/
theorem response_rdreg {s : State} (h : s.rdPhase = .idle) {n : Byte} {v : Word} (hv : regValue n s = some v) :
    response (.rdreg n) s = .next (v, { s with resp := some v }) := by
  simp [response, exec, execRdreg, atPort_idle h, answerOperand, hv, answer]

/-- A byte below the count is answered, nothing else changes (R107). -/
theorem response_txfRd {s : State} (h : s.rdPhase = .idle) {i : Word} (hi : i.toNat < s.txFlen.val) :
    response (.txfRd i) s = .next ((memRead s.txf i.toNat).setWidth 16,
      { s with resp := some ((memRead s.txf i.toNat).setWidth 16) }) := by
  simp [response, exec, execTxfRd, atPort_idle h, answerOperand, bufferByte, hi, answer]

/-- A byte below the count is answered, nothing else changes (R122). -/
theorem response_rxbRd {s : State} (h : s.rdPhase = .idle) {i : Word} (hi : i.toNat < s.rxCount.val) :
    response (.rxbRd i) s = .next ((memRead s.rxb i.toNat).setWidth 16,
      { s with resp := some ((memRead s.rxb i.toNat).setWidth 16) }) := by
  simp [response, exec, execRxbRd, atPort_idle h, answerOperand, bufferByte, hi, answer]

/-- An index within a buffer's capacity is its own 16-bit operand. -/
theorem index_toNat {a n : Nat} (h : a < n) (hn : n ≤ 65536) : (BitVec.ofNat 16 a).toNat = a := by
  rw [BitVec.toNat_ofNat]; exact Nat.mod_eq_of_lt (by omega)

/-- A byte read back from its 16-bit response. -/
theorem byte_of_response (b : Byte) : (b.setWidth 16).setWidth 8 = b := by
  apply BitVec.eq_of_getLsbD_eq
  intro i hi
  simp only [BitVec.getLsbD_setWidth]
  have : i < 16 := by omega
  simp [hi, this]

/-- Reads of `txf` in range give its bytes in order; only the response changes. -/
theorem readBytes_txfRd {a n : Nat} : ∀ {s : State}, s.rdPhase = .idle → a + n ≤ s.txFlen.val →
    ∃ r, readBytes .txfRd a n s = .next (memSlice s.txf a n, { s with resp := r }) := by
  induction n generalizing a with
  | zero => intro s _ _; exact ⟨s.resp, rfl⟩
  | succ n ih =>
    intro s h hn
    have hc := s.txFlen.isLt
    have hi : (BitVec.ofNat 16 a).toNat = a := index_toNat (n := Config.txfcap + 1) (by omega) (by decide)
    obtain ⟨r, e⟩ := ih (a := a + 1) (s := { s with resp := some ((memRead s.txf a).setWidth 16) }) h
      (by show a + 1 + n ≤ s.txFlen.val; omega)
    refine ⟨r, ?_⟩
    simp only [readBytes, response_txfRd (i := BitVec.ofNat 16 a) h (by omega), hi, andThen_next, e, byte_of_response, memSlice]

/-- Reads of `rxb` in range give its bytes in order; only the response changes. -/
theorem readBytes_rxbRd {a n : Nat} : ∀ {s : State}, s.rdPhase = .idle → a + n ≤ s.rxCount.val →
    ∃ r, readBytes .rxbRd a n s = .next (memSlice s.rxb a n, { s with resp := r }) := by
  induction n generalizing a with
  | zero => intro s _ _; exact ⟨s.resp, rfl⟩
  | succ n ih =>
    intro s h hn
    have hc := s.rxCount.isLt
    have hi : (BitVec.ofNat 16 a).toNat = a := index_toNat (n := Config.rxcap + 1) (by omega) (by decide)
    obtain ⟨r, e⟩ := ih (a := a + 1) (s := { s with resp := some ((memRead s.rxb a).setWidth 16) }) h
      (by show a + 1 + n ≤ s.rxCount.val; omega)
    refine ⟨r, ?_⟩
    simp only [readBytes, response_rxbRd (i := BitVec.ofNat 16 a) h (by omega), hi, andThen_next, e, byte_of_response, memSlice]

/-- `frame()` hands out the frame buffer's bytes; only the response changes. -/
theorem frameCall_eq {s : State} (h : s.rdPhase = .idle) :
    ∃ r, frameCall s = .next (memSlice s.txf 0 s.txFlen.val, { s with resp := r }) := by
  have hc := s.txFlen.isLt
  have hi : (countWord s.txFlen.val).toNat = s.txFlen.val := index_toNat hc (by decide)
  obtain ⟨r, e⟩ := readBytes_txfRd (a := 0) (n := s.txFlen.val) (s := { s with resp := some (countWord s.txFlen.val) }) h
    (by show 0 + s.txFlen.val ≤ s.txFlen.val; omega)
  refine ⟨r, ?_⟩
  simp only [frameCall, response_rdreg h (n := 3) (v := countWord s.txFlen.val) rfl, andThen_next, hi, e]

/-- The receiver's turn: over, or one pass of the body. -/
theorem receiverReply_cases (r : Option Frame) (x : Receiver) :
    (receiverDone x = true ∧ receiverReply r x = (x, none)) ∨
    (receiverDone x = false ∧ receiverReply r x = ((receiverPass r x).1, some (receiverPass r x).2)) := by
  cases h : receiverDone x <;> simp [receiverReply, h]

end Sys2Proof.Machine
end

