-- ==== Sys2Proof/Tests/Slice0.lean ====
section
/-! SUPPORT. Tests whose expected results come from the spec (`95_test_vectors.md`, the worked examples of the rules, the encoding
tables), and the witnesses that the hypotheses of the obligations can be met together. -/
namespace Sys2Proof.Machine.Tests
open Sys2Proof Sys2Proof.Machine
set_option Elab.async false

/-- A frame written out in `95_test_vectors.md` (V-D1). -/
def hiFrame : List Byte := [0x56, 0xF8, 0x01, 0x00, 0x00, 0x00, 0x01, 0x00, 0x02, 0x48, 0x69]

/-- V-E1. -/
def ackFrame03 : List Byte := [0x39, 0xB3, 0x02, 0x00, 0x00, 0x00, 0x03, 0x00, 0x00]

/-- The reset state with one thing to come. -/
def given (i : Input) : State := { State.reset with inputs := [i] }

/-- A read in progress from reset, with bytes accumulated. -/
def reading (bs : List Byte) : State := deliver [bs] (beginRead State.reset)

/-- The block idle with these bytes accumulated (a completed read of V-R5 and the like). -/
def holding (bs : List Byte) : State := { reading bs with rdPhase := .idle }

/-- What a step answers to a question about its next state. -/
def after {α : Type} (o : Host.Outcome State Fault Refusal) (f : State → α) : Option α :=
  match o with
  | .next t => some (f t)
  | .fault _ => none
  | .refused _ => none

/-! Words of the encoding tables (R73, R61), one for every constructor. -/

theorem test_decode_rdreg : decodeCommand [0x02, 0x0A] = .ok (.rdreg 10) := by decide
theorem test_decode_crcClr : decodeCommand [0x10] = .ok .crcClr := by decide
theorem test_decode_crcUpd : decodeCommand [0x11, 0x31] = .ok (.crcUpd 0x31) := by decide
theorem test_decode_txpClr : decodeCommand [0x20] = .ok .txpClr := by decide
theorem test_decode_txpPush : decodeCommand [0x21, 0x48] = .ok (.txpPush 0x48) := by decide
theorem test_decode_encData : decodeCommand [0x22, 0x01, 0x02, 0x03, 0x04] = .ok (.encData 0x0102 0x0304) := by decide
theorem test_decode_encAck : decodeCommand [0x23, 0x00, 0x02, 0x00, 0x03] = .ok (.encAck 2 3) := by decide
theorem test_decode_encNack : decodeCommand [0x24, 0x00, 0x01, 0x00, 0x03] = .ok (.encNack 1 3) := by decide
theorem test_decode_encErr : decodeCommand [0x25] = .ok .encErr := by decide
theorem test_decode_txfRd : decodeCommand [0x26, 0x00, 0x0B] = .ok (.txfRd 11) := by decide
theorem test_decode_readFrame : decodeCommand [0x30] = .ok .readFrame := by decide
theorem test_decode_decode : decodeCommand [0x31] = .ok .decode := by decide
theorem test_decode_rxbRd : decodeCommand [0x32, 0x01, 0x00] = .ok (.rxbRd 256) := by decide
theorem test_decode_dataSend : decodeFrame hiFrame = .ok (.dataSend 0x56F8 0 1 [0x48, 0x69]) := by decide
theorem test_decode_ack : decodeFrame ackFrame03 = .ok (.ack 0x39B3 0 3) := by decide
theorem test_decode_nack : decodeFrame [0x2B, 0x83, 0x03, 0x00, 0x01, 0x00, 0x03, 0x00, 0x00] = .ok (.nack 0x2B83 1 3) := by
  decide
theorem test_decode_err : decodeFrame [0xC1, 0xC6, 0x04, 0x00, 0x00, 0x00, 0x00, 0x00, 0x00] = .ok (.err 0xC1C6 0 0) := by
  decide

/-! What the decoder rejects, by name (R72, R74, R62, R65, R70). -/

theorem test_reject_undefined_code : decodeCommand [0x7F] = .error (.undefinedCode 0x7F) := by decide
theorem test_reject_missing_operand : decodeCommand [0x11] = .error (.byteCount 0x11 1) := by decide
theorem test_reject_extra_operand : decodeCommand [0x10, 0x00] = .error (.byteCount 0x10 2) := by decide
theorem test_reject_empty : decodeCommand [] = .error .emptyTransaction := by decide
theorem test_reject_short_header : decodeFrame (ackFrame03.take 8) = .error (.shortHeader 8) := by decide
theorem test_reject_short_payload : decodeFrame (hiFrame.take 10) = .error (.frameLength 2 10) := by decide
theorem test_reject_control_payload :
    decodeFrame [0xB2, 0x7E, 0x02, 0x00, 0x01, 0x00, 0x03, 0x00, 0x02, 0x58, 0x59] = .error (.controlLength 0x02 2) := by
  decide
theorem test_reject_unassigned_kind :
    decodeFrame [0xA4, 0x82, 0x07, 0x00, 0x05, 0x00, 0x09, 0x00, 0x00] = .error (.unassignedKind 0x07) := by decide

/-! Well-formedness: the one check, and a term it refuses (R61: a 16-bit length). -/

theorem wellFormed_zeros (t : Word) (n : Nat) : wellFormed (.dataSend 0 0 t (List.replicate n 0)) = decide (n ≤ 65535) := by
  simp [wellFormed]
theorem test_wf_refuses_long_payload : wellFormed (.dataSend 0 0 0 (List.replicate 65536 0)) = false := by
  rw [wellFormed_zeros]; decide
theorem test_wf_accepts_longest_payload : wellFormed (.dataSend 0 0 0 (List.replicate 65535 0)) = true := by
  rw [wellFormed_zeros]; decide

/-! Table words, numbered as the table numbers them (first byte most significant). -/

theorem test_table_word_enc_ack : decodeTableWord 40 0x2300020003 = some (.encAck 2 3) := by decide
theorem test_table_word_ack : decodeTableWord 72 0x39B302000000030000 = some (.ack 0x39B3 0 3) := by decide
theorem test_table_word_data_zero_payload :
    decodeTableWord 72 0x000001000000010002 = some (.dataSend 0 0 1 [0, 0]) := by decide
theorem test_table_word_runs_first :
    after (step (State.reset.withFetchWord 16 0x020A)) (·.resp) = some (some 0x05DC) := by decide +kernel
theorem test_table_frame_runs_first :
    after (step (State.reset.withFetchWord 72 0x39B302000000030000)) (·.resp) = some (some 9) := by decide +kernel

/-! Checksum (V-C1 to V-C13). -/

theorem test_crc_trace : (List.range 9).map (fun k => crcShifts k 0x0100) =
    [0x0100, 0x0200, 0x0400, 0x0800, 0x1000, 0x2000, 0x4000, 0x8000, 0x1021] := by decide +kernel
theorem test_crc_values :
    (crc16 [0xFF] = 0x1EF0) ∧
    (crc16 [0xFF, 0xFF] = 0x1D0F) ∧
    (crc16 [0x31, 0x32, 0x33, 0x34, 0x35, 0x36, 0x37, 0x38, 0x39] = 0x31C3) ∧
    (crcUpdate 0x1234 0x56 = 0x3C40) ∧
    (crcUpdate 0xFFFF 0x00 = 0xE1F0) := by decide +kernel
theorem test_crcClr : after (step { given (.command [0x10]) with crc := 0x31C3 }) (·.crc) = some 0 := by decide +kernel
theorem test_crcUpd : after (step { given (.command [0x11, 0x32]) with crc := 0x2672 }) (·.crc) = some 0x20B5 := by
  decide +kernel

/-! Encoder (V-E1 to V-E14, P7). -/

theorem test_enc_ack : frameBytes 0x02 0xFFFF 0xFFFF [] = [0xEA, 0x33, 0x02, 0xFF, 0xFF, 0xFF, 0xFF, 0x00, 0x00] := by
  decide +kernel
theorem test_enc_data_byte_order : frameBytes 0x01 0x0102 0x0304 [0x41, 0x42, 0x43] =
    [0x77, 0xAB, 0x01, 0x01, 0x02, 0x03, 0x04, 0x00, 0x03, 0x41, 0x42, 0x43] := by decide +kernel
theorem test_encData :
    after (step { given (.command [0x22, 0x00, 0x00, 0x00, 0x01]) with txp := [(0, 0x48), (1, 0x69)], txPlen := 2 })
      (fun t => (memSlice t.txf 0 11, t.txFlen.val, t.txPlen.val)) = some (hiFrame, 11, 2) := by decide +kernel
theorem test_encData_empty : after (step (given (.command [0x22, 0x00, 0x00, 0x00, 0x01])))
    (fun t => memSlice t.txf 0 t.txFlen.val) = some [0x8F, 0x51, 0x01, 0x00, 0x00, 0x00, 0x01, 0x00, 0x00] := by
  decide +kernel
theorem test_encAck : after (step (given (.command [0x23, 0x00, 0x00, 0x00, 0x03]))) (fun t => memSlice t.txf 0 t.txFlen.val) =
    some ackFrame03 := by decide +kernel
theorem test_encNack : after (step (given (.command [0x24, 0x00, 0x01, 0x00, 0x03]))) (fun t => memSlice t.txf 0 t.txFlen.val) =
    some [0x2B, 0x83, 0x03, 0x00, 0x01, 0x00, 0x03, 0x00, 0x00] := by decide +kernel
theorem test_encErr : after (step (given (.command [0x25]))) (fun t => memSlice t.txf 0 t.txFlen.val) =
    some [0xC1, 0xC6, 0x04, 0x00, 0x00, 0x00, 0x00, 0x00, 0x00] := by decide +kernel
theorem test_txpPush : after (step (given (.command [0x21, 0x48]))) (fun t => (memRead t.txp 0, t.txPlen.val, t.txOvf)) =
    some (0x48, 1, false) := by decide +kernel
theorem test_txpPush_full : after (step { given (.command [0x21, 0x14]) with txPlen := 20 })
    (fun t => (t.txPlen.val, t.txOvf, t.cmdErr)) = some (20, true, false) := by decide +kernel
theorem test_txpClr : after (step { given (.command [0x20]) with txPlen := 5, txOvf := true }) (fun t => (t.txPlen.val, t.txOvf)) =
    some (0, true) := by decide +kernel
theorem test_txfRd_nothing : after (step (given (.command [0x26, 0x00, 0x00]))) (fun t => (t.resp, t.cmdErr)) =
    some (some 0, true) := by decide +kernel
theorem test_txfRd : after (step { given (.command [0x26, 0x00, 0x01]) with txf := [(0, 0x39), (1, 0xB3)], txFlen := 9 })
    (fun t => (t.resp, t.cmdErr)) = some (some 0x00B3, false) := by decide +kernel

/-! Decoder (V-D1 to V-D15). -/

theorem test_decode_valid_frames :
    (decodeAndVerify hiFrame 11 =
    some { kind := 0x01, sequence := 0, total := 1, length := 2, payload := [0x48, 0x69] }) ∧
    (decodeAndVerify (List.replicate 9 0) 9 =
    some { kind := 0, sequence := 0, total := 0, length := 0, payload := [] }) ∧
    (decodeAndVerify [0xA4, 0x82, 0x07, 0x00, 0x05, 0x00, 0x09, 0x00, 0x00] 9 =
      some { kind := 0x07, sequence := 5, total := 9, length := 0, payload := [] }) ∧
    ((decodeAndVerify [0xB2, 0x7E, 0x02, 0x00, 0x01, 0x00, 0x03, 0x00, 0x02, 0x58, 0x59] 11).map (·.payload) =
      some [0x58, 0x59]) := by decide +kernel
theorem test_decode_invalid_frames :
    (decodeAndVerify hiFrame 10 = none) ∧
    (decodeAndVerify (hiFrame ++ [0x00]) 12 = none) ∧
    (decodeAndVerify (hiFrame.set 9 0x49) 11 = none) ∧
    (decodeAndVerify (hiFrame.set 2 0x02) 11 = none) ∧
    (decodeAndVerify (ackFrame03 ++ [0x93, 0xE2, 0x02, 0x00, 0x01, 0x00, 0x03, 0x00, 0x00]) 18 = none) := by decide +kernel
theorem test_decode_command : after (exec .decode (holding ackFrame03))
    (fun t => (t.resp, t.rxValid, t.rxKind, t.rxSeq, t.rxTotal)) = some (some 1, true, 0x02, 0, 3) := by
  decide +kernel
theorem test_decode_command_after_reset : after (step (given (.command [0x31]))) (fun t => (t.resp, t.rxValid, t.cmdErr)) =
    some (some 0, false, false) := by decide +kernel
theorem test_rxbRd : after (exec (.rxbRd 10) (holding hiFrame)) (fun t => (t.resp, t.cmdErr)) = some (some 0x0069, false) := by
  decide +kernel
theorem test_rxbRd_refused : after (step (given (.command [0x32, 0x00, 0x00]))) (fun t => (t.resp, t.cmdErr)) =
    some (some 0, true) := by decide +kernel

/-! Message Reader (V-R1 to V-R11), one event each. -/

theorem test_readFrame : after (step { given (.command [0x30]) with rxCount := 9, rxValid := true, rxKind := 2 })
    (fun t => (t.rdPhase, t.rxCount.val, t.rxNeed.val, t.rxValid, t.resp)) = some (.hdr, 0, 9, false, none) := by
  decide +kernel
theorem test_burst_control :
    (after (step { beginRead State.reset with inputs := [.rxBurst (ackFrame03.take 4)] })
    (fun t => (t.rdPhase, t.rxCount.val, t.resp)) = some (.hdr, 4, none)) ∧
    (after (step { reading (ackFrame03.take 4) with inputs := [.rxBurst (ackFrame03.drop 4)] })
    (fun t => (t.rdPhase, t.rxCount.val, t.resp)) = some (.idle, 9, some 9)) := by decide +kernel
theorem test_burst_payload :
    (after (step { reading (hiFrame.take 5) with inputs := [.rxBurst ((hiFrame.take 10).drop 5)] })
    (fun t => (t.rdPhase, t.rxCount.val, t.rxNeed.val)) = some (.pay, 10, 11)) ∧
    (after (step { deliver [hiFrame.take 10] (beginRead State.reset) with
      inputs := [.rxBurst (hiFrame.drop 10)] })
    (fun t => (t.rdPhase, t.rxCount.val, t.resp)) = some (.idle, 11, some 11)) := by decide +kernel
theorem test_burst_wrong_length :
    (after (step { beginRead State.reset with inputs := [.rxBurst (hiFrame ++ [0x39])] })
    (fun t => (t.rdPhase, t.rxNeed.val, t.resp)) = some (.idle, 11, some 12)) ∧
    (after (step { beginRead State.reset with
      inputs := [.rxBurst [0x56, 0xF8, 0x02, 0x00, 0x00, 0x00, 0x01, 0x00, 0x02]] })
    (fun t => (t.rdPhase, t.resp)) = some (.idle, some 9)) := by decide +kernel
theorem test_burst_capacity :
    (after (step { beginRead State.reset with
      inputs := [.rxBurst [0x9C, 0x4E, 0x01, 0x00, 0x00, 0x00, 0x01, 0x05, 0xD4]] })
    (fun t => (t.rdPhase, t.rxCount.val, t.resp)) = some (.idle, 0, some 0)) ∧
    (after (step { beginRead State.reset with
      inputs := [.rxBurst [0x9D, 0x9A, 0x01, 0x00, 0x00, 0x00, 0x01, 0x05, 0xD3]] })
    (fun t => (t.rdPhase, t.rxCount.val, t.rxNeed.val, t.resp)) = some (.pay, 9, 1500, none)) := by decide +kernel
theorem test_timeout : after (step { reading (ackFrame03.take 3) with inputs := [.rxTimeout] })
    (fun t => (t.rdPhase, t.rxCount.val, t.resp)) = some (.idle, 0, some 0) := by decide +kernel
theorem test_dataSend : after (exec (.dataSend 0x56F8 0 1 [0x48, 0x69]) (beginRead State.reset))
    (fun t => (received t, t.rdPhase, t.resp)) = some (hiFrame, .idle, some 11) := by decide +kernel
theorem test_ack : after (exec (.ack 0x39B3 0 3) (beginRead State.reset)) (fun t => (received t, t.rdPhase, t.resp)) =
    some (ackFrame03, .idle, some 9) := by decide +kernel
theorem test_nack : after (exec (.nack 0xD882 0 0) (beginRead State.reset)) (fun t => (received t, t.rdPhase)) =
    some ([0xD8, 0x82, 0x03, 0x00, 0x00, 0x00, 0x00, 0x00, 0x00], .idle) := by decide +kernel
theorem test_err : after (exec (.err 0xC1C6 0 0) (beginRead State.reset)) (fun t => (received t, t.rdPhase)) =
    some ([0xC1, 0xC6, 0x04, 0x00, 0x00, 0x00, 0x00, 0x00, 0x00], .idle) := by decide +kernel
theorem test_frame_while_idle_stays : after (step (given (.rxBurst ackFrame03))) (fun t => (t.chan, t.rxCount.val, t.rdPhase)) =
    some ([ackFrame03], 0, .idle) := by decide +kernel

/-! System (V-S1 to V-S8), holding and RESET. -/

theorem test_rdreg_maxp : after (step (given (.command [0x02, 0x09]))) (fun t => (t.resp, t.cmdErr)) =
    some (some 0x0014, false) := by decide +kernel
theorem test_rdreg_status : after (step { given (.command [0x02, 0x00]) with cmdErr := true }) (·.resp) =
    some (some 0x0004) := by decide +kernel
theorem test_refused_register : after (step (given (.command [0x02, 0x0B]))) (fun t => (t.resp, t.cmdErr)) =
    some (some 0, true) := by decide +kernel
theorem test_refused_code : after (step (given (.command [0x7F]))) (fun t => (t.resp, t.cmdErr)) = some (some 0, true) := by
  decide +kernel
theorem test_refused_count : after (step { given (.command [0x11]) with crc := 7 }) (fun t => (t.resp, t.cmdErr, t.crc)) =
    some (some 0, true, 7) := by decide +kernel
theorem test_held : after (step { beginRead State.reset with inputs := [.command [0x10]] }) (fun t => (t.held, t.rdPhase)) =
    some ([[0x10]], .hdr) := by decide +kernel
theorem test_held_runs : after (step { State.reset with held := [[0x02, 0x0A]] }) (fun t => (t.held, t.resp)) =
    some ([], some 0x05DC) := by decide +kernel
theorem test_reset_drops_read : after (step { reading (ackFrame03.take 3) with held := [[0x10]], inputs := [.reset] })
    (fun t => (t.rdPhase, t.rxCount.val, t.held, t.resp)) = some (.idle, 0, [], none) := by decide +kernel

/-! The host agent (S2, S3, P8). -/

theorem test_chunks_45 : (totalChunks 45, (List.range 3).map (fun k => (chunk (List.replicate 45 7) k).length)) =
    (3, [20, 20, 5]) := by decide +kernel
theorem test_sender_err_fails : (senderReply (decodeAndVerify [0xC1, 0xC6, 0x04, 0x00, 0x00, 0x00, 0x00, 0x00, 0x00] 9)
    { buffer := List.replicate 45 7, chunkIndex := 1, phase := .await }).phase = .failure := by decide +kernel
theorem test_receiver_gap : receiverReply (some { kind := 1, sequence := 2, total := 3, length := 0, payload := [] })
      { expected := 1, total := some 3, out := [7] } =
    (({ expected := 1, total := some 3, out := [7] } : Receiver),
      some [0x2B, 0x83, 0x03, 0x00, 0x01, 0x00, 0x03, 0x00, 0x00]) := by
  decide +kernel
theorem test_receiver_duplicate : receiverReply (some { kind := 1, sequence := 0, total := 3, length := 1, payload := [9] })
      { expected := 1, total := some 3, out := [7] } =
    (({ expected := 1, total := some 3, out := [7] } : Receiver), some ackFrame03) := by
  decide +kernel
/-- A session that is done sends no Nack to a read that would come later. -/
theorem test_receiver_done : receiverLoop [none, none] { expected := 3, total := some 3, out := [7, 8] } = ([], some [7, 8]) := by
  decide +kernel
/-- S1: 45 bytes in three chunks. -/
theorem test_receive_45 : (receiveTransfer ((List.range 3).map fun i => some (chunkFrame (List.replicate 45 7) i))).2 =
    some (List.replicate 45 7) := by decide +kernel

/-! The pseudo-operations (R77) on V-E1, V-D1 and V-R1. -/

/-- The value of a pseudo-operation. -/
def valueOf {α : Type} (o : Host.Outcome (α × State) Fault Refusal) : Option α :=
  match o with
  | .next r => some r.1
  | .fault _ => none
  | .refused _ => none

theorem test_encodeCalls : valueOf (encodeAckCall 0 3 State.reset) = some ackFrame03 ∧
    valueOf (encodeDataCall [0x48, 0x69] 0 1 State.reset) = some hiFrame := by decide +kernel
theorem test_decodeCall : valueOf (decodeCall (holding hiFrame)) =
      some (some { kind := 0x01, sequence := 0, total := 1, length := 2, payload := [0x48, 0x69] }) ∧
    valueOf (decodeCall State.reset) = some none := by decide +kernel
theorem test_readFrameCall : valueOf (readFrameCall 2 { State.reset with
      inputs := [.rxBurst (ackFrame03.take 4), .rxBurst (ackFrame03.drop 4)] }) = some (some 9) ∧
    valueOf (readFrameCall 1 { State.reset with inputs := [.rxBurst (ackFrame03.take 4)] }) = some none := by decide +kernel
theorem test_checksumCall : valueOf (checksumCall [0xFF] State.reset) = some 0x1EF0 := by decide +kernel

/-! Memory: reset is in canonical form; writing the unlisted value removes the entry. -/

theorem test_reset_memory_wf :
    (Memory.wf State.reset.txp && Memory.wf State.reset.txf && Memory.wf State.reset.rxb) = true := by decide
theorem test_write_zero_removes : memWrite [(0, 1), (3, 2)] 3 0 = [(0, 1)] := by decide

/-! Witnesses: for each obligation with hypotheses, concrete values that meet all of them together; for a statement with clauses,
one at the boundary of each. -/

/-- A read has just started. -/
def busy : State := beginRead State.reset

/-- The block idle, nine bytes (V-E1) in both the transmit frame and the reassembly buffer. -/
def idleFull : State :=
  { holding ackFrame03 with txf := memWriteBytes [] 0 ackFrame03, txFlen := 9 }

/-- A frame of `n` zero bytes of payload. -/
abbrev zeros (n : Nat) : Instr := .dataSend 0 0 1 (List.replicate n 0)

theorem zeros_length (n : Nat) : (encode (zeros n)).length = 9 + n := by simp [encode]
theorem busy_started : ReadStarted busy := ⟨rfl, rfl, rfl⟩
theorem noInput_uninterrupted {s : State} (h : s.inputs = []) : Uninterrupted s := by simp [Uninterrupted, h]

theorem witness_DecodeInvertsEncode : wellFormed (zeros 65535) = true ∧ wellFormed (.err 0 0 0) = true ∧
    wellFormed (.rdreg 255) = true := ⟨by rw [wellFormed_zeros]; decide, rfl, rfl⟩
theorem witness_EncodeInvertsDecode : decode .command [0x32, 0xFF, 0xFF] = .ok (.rxbRd 0xFFFF) ∧
    decode .wireFrame hiFrame = .ok (.dataSend 0x56F8 0 1 [0x48, 0x69]) := by decide
theorem witness_UndefinedCodes_boundaries :
    ([0x00, 0x01, 0x03, 0x0F, 0x12, 0x1F, 0x27, 0x2F, 0x33, 0xFF] : List Byte).all
      (fun c => decide (decodeCommand [c] = .error (.undefinedCode c))) = true ∧
    ([0x02, 0x10, 0x11, 0x20, 0x26, 0x30, 0x32] : List Byte).all
      (fun c => decide (decodeCommand [c] ≠ .error (.undefinedCode c))) = true := by decide
theorem witness_UndefinedCodesAreRefused : decodeCommand [0x7F, 1, 2] = .error (.undefinedCode 0x7F) ∧
    (given (.command [0x7F, 1, 2])).rdPhase = .idle ∧ (given (.command [0x7F, 1, 2])).held = [] ∧
    (given (.command [0x7F, 1, 2])).inputs = [.command [0x7F, 1, 2]] := ⟨by decide, rfl, rfl, rfl⟩

theorem witness_RefusedAt_boundaries : RefusedAt [0x7F] State.reset ∧ RefusedAt [0x11] State.reset ∧ RefusedAt [0x02, 0x0B] State.reset ∧
    RefusedAt [0x26, 0x00, 0x09] idleFull ∧ RefusedAt [0x32, 0x00, 0x09] idleFull :=
  ⟨.inl ⟨by decide, .undefinedCode 0x7F, by decide⟩, .inl ⟨by decide, .byteCount 0x11 1, by decide⟩, .inr (.inl ⟨11, by decide, by decide⟩),
    .inr (.inr (.inl ⟨9, by decide, by decide⟩)), .inr (.inr (.inr ⟨9, by decide, by decide +kernel⟩))⟩
theorem witness_RefusedCommandsOnlySetCmdErr : RefusedAt [0x7F] (given (.command [0x7F])) ∧
    (given (.command [0x7F])).rdPhase = .idle ∧ (given (.command [0x7F])).held = [] ∧
    (given (.command [0x7F])).inputs = [.command [0x7F]] := ⟨.inl ⟨by decide, .undefinedCode 0x7F, by decide⟩, rfl, rfl, rfl⟩
theorem witness_RefusedCommands_stays : let s : State := { State.reset with cmdErr := true }
    step s = .next s ∧ (∀ rest, s.inputs ≠ .reset :: rest) ∧ s.cmdErr = true := ⟨rfl, by simp [State.reset], rfl⟩
theorem witness_RefusedCommands_busy : let s : State := { busy with inputs := [.command [0x7F]] }
    s.rdPhase ≠ .idle ∧ s.chan = [] ∧ s.inputs = [.command [0x7F]] ∧ ∃ t, step s = .next t :=
  ⟨by decide, rfl, rfl, _, rfl⟩

theorem witness_StepRunsTheDecodedCommand : decodeCommand [0x10] = .ok .crcClr ∧
    (given (.command [0x10])).inputs = [.command [0x10]] ∧ (given (.command [0x10])).rdPhase = .idle ∧
    (given (.command [0x10])).held = [] ∧ ({ busy with inputs := [.command [0x10]] } : State).rdPhase ≠ .idle ∧
    ({ busy with inputs := [.command [0x10]] } : State).chan = [] := ⟨by decide, rfl, rfl, rfl, by decide, rfl⟩
theorem witness_StepRuns_held : let s : State := { State.reset with held := [[0x10]] }
    decodeCommand [0x10] = .ok .crcClr ∧ s.held = [[0x10]] ∧ s.rdPhase = .idle ∧ Uninterrupted s :=
  ⟨by decide, rfl, rfl, noInput_uninterrupted rfl⟩
theorem witness_StepRunsTheDecodedFrame : decodeFrame ackFrame03 = .ok (.ack 0x39B3 0 3) ∧
    (given (.rxBurst ackFrame03)).rdPhase = .idle ∧ (given (.rxBurst ackFrame03)).held = [] ∧
    (given (.rxBurst ackFrame03)).inputs = [.rxBurst ackFrame03] := ⟨by decide, rfl, rfl, rfl⟩
theorem witness_StepRuns_channel : let s : State := { busy with chan := [ackFrame03] }
    decodeFrame ackFrame03 = .ok (.ack 0x39B3 0 3) ∧ s.chan = [ackFrame03] ∧ s.rdPhase ≠ .idle ∧ Uninterrupted s :=
  ⟨by decide, rfl, by decide, noInput_uninterrupted rfl⟩
theorem witness_PlacedWordRunsNext : decodeTableWord 8 0x30 = some .readFrame ∧
    decodeTableWord 72 0x39B302000000030000 = some (.ack 0x39B3 0 3) := by decide

theorem witness_BusyBlockHoldsCommands : (Instr.crcClr).space = .command ∧ busy.rdPhase ≠ .idle ∧
    ({ busy with inputs := [.command [0x7F]] } : State).chan = [] := ⟨rfl, by decide, rfl⟩
theorem witness_HeldCommandRuns : let s : State := { State.reset with held := [[0x7F], [0x10]] }
    s.rdPhase = .idle ∧ s.held = [[0x7F], [0x10]] ∧ Uninterrupted s ∧ (∃ e, decodeCommand [0x7F] = .error e) :=
  ⟨rfl, rfl, noInput_uninterrupted rfl, _, rfl⟩
theorem witness_NothingToDoChangesNothing : RunEnded State.reset ∧ busy.rdPhase ≠ .idle ∧ busy.chan = [] ∧ busy.inputs = [] :=
  ⟨⟨rfl, rfl, fun bytes => by simp [State.reset]⟩, by decide, rfl, rfl⟩
theorem witness_RunEnded_stays : let s : State := { State.reset with inputs := [.rxBurst [0x39], .rxTimeout] }
    RunEnded s ∧ (∃ t, step s = .next t) ∧ (∀ rest, s.inputs ≠ .reset :: rest) :=
  ⟨⟨rfl, rfl, fun bytes => by simp⟩, ⟨_, rfl⟩, by simp⟩
theorem witness_ResetRestoresTheBlock : ({ reading (hiFrame.take 10) with inputs := [.reset] } : State).inputs = [.reset] ∧
    (given .reset).inputs = [.reset] := ⟨rfl, rfl⟩
theorem witness_TimeoutAbortsTheRead : let s : State := { reading (hiFrame.take 10) with inputs := [.rxTimeout] }
    s.rdPhase ≠ .idle ∧ s.inputs = [.rxTimeout] := ⟨by decide +kernel, rfl⟩

theorem witness_idle : State.reset.rdPhase = .idle ∧ idleFull.rdPhase = .idle := ⟨rfl, rfl⟩
theorem witness_ChecksumIsLinear : ([0x31, 0x32] : List Byte).length = ([0xFF, 0x00] : List Byte).length := rfl
theorem witness_ChecksumSeesEveryShortChange : (0x00 : Byte) ≠ 0x01 ∧ ((0x00 : Byte), (0x01 : Byte)) ≠ (0x01, 0x00) := by decide
theorem witness_OnlyChecksumCommandsWriteCrc : exec .txpClr State.reset = .next State.reset ∧ Instr.txpClr ≠ .crcClr ∧
    (∀ b, Instr.txpClr ≠ .crcUpd b) := ⟨rfl, by decide, fun b => by simp⟩
theorem witness_CrcChanges : after (step (given (.command [0x11, 0x31]))) (fun t => decide (t.crc ≠ State.reset.crc)) = some true := by
  decide +kernel

theorem witness_TxpPushAppendsOrOverflows :
    Memory.wf ({ State.reset with txPlen := 19 } : State).txp = true ∧ ({ State.reset with txPlen := 19 } : State).txPlen.val < 20 ∧
    ({ State.reset with txPlen := 20 } : State).txPlen.val = 20 ∧ ({ State.reset with txPlen := 20 } : State).rdPhase = .idle := by
  decide
theorem witness_EncStoresTheFrame : idleFull.rdPhase = .idle ∧ Memory.wf idleFull.txf = true ∧ idleFull.txf ≠ [] := by
  decide +kernel
theorem witness_EncControlStoresNineBytes : (Instr.encErr = .encErr ∧ frameBytes 0x04 0 0 [] = frameBytes 0x04 0x0000 0x0000 []) ∧
    Instr.encAck 1 2 = .encAck 1 2 ∧ Instr.encNack 1 2 = .encNack 1 2 := ⟨⟨rfl, rfl⟩, rfl, rfl⟩
theorem witness_IndexBoundaries : (8 : Word).toNat < idleFull.txFlen.val ∧ ¬ (9 : Word).toNat < idleFull.txFlen.val ∧
    (8 : Word).toNat < idleFull.rxCount.val ∧ ¬ (9 : Word).toNat < idleFull.rxCount.val := by decide +kernel
theorem witness_FrameBytesLayout : ([] : List Byte).length ≤ 65535 ∧ (List.replicate 65535 (0 : Byte)).length ≤ 65535 := by
  constructor
  · decide
  · rw [List.length_replicate]
theorem witness_EncodingIsInjective : frameBytes 0x02 0 3 [] = frameBytes 0x02 0 3 [] := rfl
theorem reset_buffersWf : BuffersWf State.reset := by constructor <;> decide
theorem witness_EncodeDataProgramBuildsTheFrame : BuffersWf State.reset ∧ State.reset.rdPhase = .idle ∧
    (List.replicate 20 (7 : Byte)).length ≤ 20 := ⟨reset_buffersWf, rfl, by decide⟩

theorem witness_ValidMeansExactlyEncoded : 11 ≤ hiFrame.length := by decide
theorem witness_SingleByteCorruptionIsRejected : ([] : List Byte).length ≤ 65535 ∧ 8 < 9 + ([] : List Byte).length ∧
    (0x01 : Byte) ≠ (frameBytes 0x02 0 3 []).getD 8 0 := by decide +kernel
theorem witness_WrongByteCountIsInvalid : ([0x48, 0x69] : List Byte).length ≤ 65535 ∧
    10 ≠ 9 + ([0x48, 0x69] : List Byte).length ∧ 12 ≠ 9 + ([0x48, 0x69] : List Byte).length := by decide
theorem witness_DecodeStoresTheResult : let f : Frame := { kind := 2, sequence := 0, total := 3, length := 0, payload := [] }
    idleFull.rdPhase = .idle ∧ f.payload.length = f.length.toNat ∧
    memSlice idleFull.rxb 0 idleFull.rxCount.val = frameBytes f.kind f.sequence f.total f.payload := by
  decide +kernel
theorem witness_DecodeInvalid : ∀ f : Frame, ¬ (f.payload.length = f.length.toNat ∧
    memSlice State.reset.rxb 0 State.reset.rxCount.val = frameBytes f.kind f.sequence f.total f.payload) := by
  intro f h
  have := congrArg List.length h.2
  rw [frameBytes_length, memSlice_length] at this
  have h0 : State.reset.rxCount.val = 0 := rfl
  omega

/-- Header bytes: eight and nine accumulated; then the need just not met and just met; the largest frame and one byte more. -/
theorem witness_BurstFollowsThePseudocode :
    ArrivesNext (ackFrame03.take 8) [] { busy with inputs := [.rxBurst (ackFrame03.take 8)] } ∧
    ArrivesNext ackFrame03 [] { busy with inputs := [.rxBurst ackFrame03] } ∧
    ArrivesNext [0x69] [] { reading (hiFrame.take 9) with inputs := [.rxBurst [0x69]] } ∧
    Memory.wf (reading (hiFrame.take 9)).rxb = true :=
  ⟨⟨by decide, rfl, rfl, by decide, by decide⟩, ⟨by decide, rfl, rfl, by decide, by decide⟩,
    ⟨by decide +kernel, by decide +kernel, rfl, by decide, by decide +kernel⟩, by decide +kernel⟩
theorem witness_BurstOfFullRoom : (List.replicate 1500 (0 : Byte)).length ≤ Config.rxcap - busy.rxCount.val := by
  rw [List.length_replicate]; decide
theorem witness_ArrivalsAreReceivedAlike : (given (.rxBurst [0x39])).rdPhase = .idle ∧ ([0x39] : List Byte) ≠ [] ∧
    ({ busy with chan := [[0x39]] } : State).rdPhase ≠ .idle ∧ Uninterrupted { busy with chan := [[0x39]] } :=
  ⟨rfl, by decide, by decide, noInput_uninterrupted rfl⟩
theorem witness_WholeFrameCompletesTheRead : (zeros 1491).space = .wireFrame ∧ wellFormed (zeros 1491) = true ∧
    (encode (zeros 1491)).length ≤ 1500 ∧ ReadStarted busy ∧ Memory.wf busy.rxb = true :=
  ⟨rfl, by rw [wellFormed_zeros]; decide, by rw [zeros_length], busy_started, rfl⟩
theorem witness_ControlFrames : ([.ack 0 1 2, .nack 0 1 2, .err 0 0 0] : List Instr).all
    (fun i => decide (i.space = .wireFrame) && wellFormed i && decide ((encode i).length ≤ 1500)) = true := by decide
theorem witness_IdleFrameStaysInTheChannel : (Instr.err 0 0 0).space = .wireFrame ∧ State.reset.rdPhase = .idle := ⟨rfl, rfl⟩
theorem witness_OversizeFrameAbortsTheRead : (List.replicate 1492 (0 : Byte)).length ≤ 65535 ∧
    1500 < 9 + (List.replicate 1492 (0 : Byte)).length ∧ ReadStarted busy ∧ Memory.wf busy.rxb = true :=
  ⟨by rw [List.length_replicate]; decide, by rw [List.length_replicate]; decide, busy_started, rfl⟩

theorem busy_inv : BlockInv busy where
  txFlen := .inl rfl
  rxNeed := by decide
  hdr := fun _ => ⟨by decide, rfl⟩
  pay := fun h => nomatch h
  valid := fun h => nomatch h
  invalid := fun _ => ⟨rfl, rfl, rfl, rfl⟩
  frame := fun h => absurd h (by decide)

theorem witness_ReadAnswersZeroOrAtLeastNine : let s : State := { busy with inputs := [.rxTimeout] }
    BlockInv s ∧ s.rdPhase ≠ .idle ∧ (∀ rest, s.inputs ≠ .reset :: rest) ∧ ∃ t, step s = .next t ∧ t.rdPhase = .idle :=
  ⟨{ busy_inv with valid := fun h => nomatch h }, by decide, by simp, _, rfl, rfl⟩
theorem witness_ReadAnswers_nine :
    after (step { busy with inputs := [.rxBurst ackFrame03] }) (fun t => t.rdPhase) = some .idle := by decide +kernel
theorem witness_ReadsEndWithinTheCapacity : BlockInv busy ∧ busy.rdPhase ≠ .idle ∧
    (∀ bs ∈ List.replicate 1500 ([0x01] : List Byte), bs ≠ []) ∧
    1500 - busy.rxCount.val ≤ (List.replicate 1500 ([0x01] : List Byte)).length := by
  refine ⟨busy_inv, by decide, fun bs h => ?_, ?_⟩
  · rw [List.eq_of_mem_replicate h]; decide
  · rw [List.length_replicate]; decide
theorem witness_SplitOfAFrameDoesNotMatter : let bursts := [hiFrame.take 3, (hiFrame.drop 3).take 7, hiFrame.drop 10]
    (∀ bs ∈ bursts, bs ≠ []) ∧ bursts.flatten = encode (.dataSend 0x56F8 0 1 [0x48, 0x69]) ∧
    (encode (.dataSend 0x56F8 0 1 [0x48, 0x69])).length ≤ 1500 ∧ wellFormed (.dataSend 0x56F8 0 1 [0x48, 0x69]) = true := by
  decide
theorem witness_SentFrameIsReceivedWhole : ∃ a', exec (.encData 0 1) State.reset = .next a' ∧
    (∀ bs ∈ [memSlice a'.txf 0 a'.txFlen.val], bs ≠ []) ∧
    [memSlice a'.txf 0 a'.txFlen.val].flatten = memSlice a'.txf 0 a'.txFlen.val :=
  ⟨_, rfl, by decide +kernel, by decide +kernel⟩

theorem witness_RdregBoundary : ¬ 10 < (10 : Byte).toNat ∧ 10 < (11 : Byte).toNat ∧ 10 < (255 : Byte).toNat := by decide
theorem witness_OnlyAFullPushSetsTxOvf : let s : State := { given (.command [0x21, 0x14]) with txPlen := 20 }
    (∀ rest, s.inputs ≠ .reset :: rest) ∧ s.txOvf = false ∧ ∃ t, step s = .next t ∧ t.txOvf = true :=
  ⟨by simp [given], rfl, _, rfl, by decide +kernel⟩
theorem witness_TxOvfStays : let s : State := { given (.command [0x20]) with txOvf := true }
    (∀ rest, s.inputs ≠ .reset :: rest) ∧ s.txOvf = true ∧ ∃ t, step s = .next t := ⟨by simp [given], rfl, _, rfl⟩

theorem witness_EveryStepKeepsTheInvariant : BlockInv busy ∧ BuffersWf busy ∧ ∃ t, step busy = .next t :=
  ⟨busy_inv, by constructor <;> decide, _, rfl⟩
theorem witness_DeadBytesAreUnobservable : let t : State := { State.reset with txp := [(3, 0x41)], rxb := [(7, 0x42)] }
    SameView State.reset t ∧ BuffersWf State.reset ∧ BuffersWf t ∧ State.reset ≠ t ∧
    (∃ u, step State.reset = .next u) ∧ ∃ u, step t = .next u :=
  ⟨⟨fun a h => absurd h (Nat.not_lt_zero a), fun a h => absurd h (Nat.not_lt_zero a), fun a h => absurd h (Nat.not_lt_zero a), rfl⟩,
    reset_buffersWf, by constructor <;> decide, by decide, ⟨_, rfl⟩, ⟨_, rfl⟩⟩
theorem witness_ChunksPartitionTheBuffer : ([7] : List Byte) ≠ [] ∧ (List.replicate 20 (7 : Byte)) ≠ [] ∧
    1 + 1 < totalChunks 41 := by decide
theorem witness_SenderDecidesOnKindAlone :
    ({ buffer := [7], chunkIndex := 0, phase := .await } : Sender).phase = .await ∧
    (0x04 : Byte) ≠ 0x02 ∧ (0x04 : Byte) ≠ 0x03 := by decide
theorem witness_ReceiverAppendsInOrderOnly : receiverStart.total = none ∧ receiverStart.expected < 65536 ∧
    ({ expected := 1, total := some 3, out := [] } : Receiver).total = some 3 ∧ 1 ≠ (3 : Word).toNat ∧ 1 < (2 : Word).toNat ∧
    (0 : Word).toNat < 1 ∧ (1 : Word).toNat = 1 ∧
    receiverDone { expected := 3, total := some 3, out := [7] } = true := by decide
theorem witness_ReceiverReturnsTheBuffer : ([7] : List Byte) ≠ [] ∧ totalChunks ([7] : List Byte).length ≤ 65535 ∧
    totalChunks 1310700 = 65535 := by decide
theorem witness_EncodeCallsReturnTheFrame : BuffersWf State.reset ∧ State.reset.rdPhase = .idle ∧
    (List.replicate 20 (7 : Byte)).length ≤ 20 := ⟨reset_buffersWf, rfl, by decide⟩
theorem witness_DecodeCallReturnsTheFrame : (holding hiFrame).rdPhase = .idle ∧ State.reset.rdPhase = .idle := ⟨rfl, rfl⟩
theorem witness_ReadFrameCallReturnsTheCount : let bursts := [hiFrame.take 3, (hiFrame.drop 3).take 7, hiFrame.drop 10]
    let s : State := { State.reset with inputs := bursts.map .rxBurst }
    (∀ bs ∈ bursts, bs ≠ []) ∧ bursts.flatten = encode (.dataSend 0x56F8 0 1 [0x48, 0x69]) ∧ s.rdPhase = .idle ∧ s.chan = [] ∧
    Memory.wf s.rxb = true := by decide
theorem witness_ReadFrameCall_timeout : (given .rxTimeout).rdPhase = .idle ∧ (given .rxTimeout).inputs = [.rxTimeout] ∧
    State.reset.chan = [] ∧ State.reset.inputs = [] := ⟨rfl, rfl, rfl, rfl⟩

end Sys2Proof.Machine.Tests
end

section
/-! The sticky flag `tx_ovf` (`10_state.md` R19): what each operation, each instruction and each step does to it. -/
namespace Sys2Proof.Machine

/-! The operations above the named updates. -/

@[simp] theorem receive_txOvf (bs : List Byte) (s : State) : (receive bs s).txOvf = s.txOvf := by
  obtain ⟨_, _, _, _, _, _, e⟩ := receive_only bs s
  rw [e]

@[simp] theorem rxTimeout_txOvf (s : State) : (rxTimeout s).txOvf = s.txOvf := by
  unfold rxTimeout
  split <;> simp

@[simp] theorem answerOperand_txOvf (v : Option Word) (s : State) : (answerOperand v s).txOvf = s.txOvf := by
  cases v <;> rfl

@[simp] theorem storeDecoded_txOvf (r : Option Frame) (s : State) : (storeDecoded r s).txOvf = s.txOvf := by
  cases r <;> rfl

/-- A push leaves the flag or finds the buffer full and sets it (R102). -/
theorem pushByte_txOvf (b : Byte) (s : State) :
    (pushByte b s).txOvf = s.txOvf ∨ (s.txPlen.val = 20 ∧ (pushByte b s).txOvf = true) := by
  rcases pushByte_cases b s with ⟨_, e⟩ | ⟨hfull, e⟩
  · exact .inl (by simp [e])
  · have hcap := s.txPlen.isLt
    simp only [Config.maxp] at hfull hcap
    exact .inr ⟨by omega, by simp [e]⟩

/-- A command whose run leaves the flag leaves it at the port too: holding it changes nothing of the block (R143). -/
theorem atPort_txOvf {run : State → State} {s : State} (h : (run s).txOvf = s.txOvf) (bytes : List Byte) :
    (atPort bytes run s).txOvf = s.txOvf := by
  rcases atPort_cases bytes run s with ⟨_, e⟩ | ⟨_, e⟩
  · rw [e, h]
  · rw [e, hold_txOvf]

@[simp] theorem malformed_txOvf (bytes : List Byte) (s : State) : (malformed bytes s).txOvf = s.txOvf :=
  atPort_txOvf (refuse_txOvf s) bytes

/-! The instructions. -/

theorem decodeKind_space {kind : Byte} {checksum sequence total length : Word} {payload : List Byte} {i : Instr}
    (h : decodeKind kind checksum sequence total length payload = .ok i) : i.space = .wireFrame := by
  unfold decodeKind at h
  split_ifs at h <;> cases h <;> rfl

/-- Bytes of the channel never decode to a command (R60, R72: two spaces). -/
theorem decodeFrame_space {bs : List Byte} {i : Instr} (h : decodeFrame bs = .ok i) : i.space = .wireFrame := by
  unfold decodeFrame at h
  split at h
  · exact decodeKind_space h
  · cases h

/-- An instruction keeps the flag, or it is a TXP_PUSH that finds the buffer full (R19). -/
theorem exec_txOvf {i : Instr} {s t : State} (h : exec i s = .next t) :
    t.txOvf = s.txOvf ∨ ((∃ b, i = .txpPush b) ∧ s.txPlen.val = 20 ∧ t.txOvf = true) := by
  cases i with
  | txpPush b =>
    cases h
    rcases atPort_cases (encode (.txpPush b)) (pushByte b) s with ⟨_, e⟩ | ⟨_, e⟩
    · rw [e]
      exact (pushByte_txOvf b s).imp_right fun ⟨hfull, hset⟩ => ⟨⟨b, rfl⟩, hfull, hset⟩
    · exact .inl (by rw [e, hold_txOvf])
  | dataSend | ack | nack | err => cases h; exact .inl (receive_txOvf _ s)
  | rdreg | txfRd | rxbRd => cases h; exact .inl (atPort_txOvf (answerOperand_txOvf _ s) _)
  | decode => cases h; exact .inl (atPort_txOvf (storeDecoded_txOvf _ s) _)
  | crcClr | crcUpd | txpClr | encData | encAck | encNack | encErr | readFrame =>
    cases h; exact .inl (atPort_txOvf rfl _)

/-! The steps. -/

theorem SameBlock.txOvf {s u : State} (h : SameBlock s u) : u.txOvf = s.txOvf := by rw [h]

theorem SameBlock.txPlen {s u : State} (h : SameBlock s u) : u.txPlen = s.txPlen := by rw [h]

/-- RESET at the head of what comes next is what the step does (R204). -/
theorem step_reset {s : State} {rest : List Input} (h : s.inputs = .reset :: rest) :
    step s = .next (resetBlock { s with inputs := rest }) := by
  simp [step, nextTurn, nextInput, h]

/-- Every step but RESET keeps the flag, or runs a TXP_PUSH that finds the buffer full (R19). -/
theorem step_txOvf {s t : State} (h : step s = .next t) (hr : ∀ rest, s.inputs ≠ .reset :: rest) :
    t.txOvf = s.txOvf ∨ (s.txPlen.val = 20 ∧ t.txOvf = true ∧
      ∃ bs b u, nextTurn s = .command bs u ∧ decodeCommand bs = .ok (.txpPush b)) := by
  rcases nextTurn_cases s with e | ⟨rest, hi, _⟩ | ⟨rest, _, e⟩ | ⟨bs, u, hu, e⟩ | ⟨bs, u, hu, e⟩
  · simp only [step, e] at h
    cases h
    exact .inl rfl
  · exact absurd hi (hr rest)
  · simp only [step, e] at h
    cases h
    exact .inl (rxTimeout_txOvf _)
  · cases hd : decodeCommand bs with
    | ok i =>
      simp only [step, e, hd] at h
      rcases exec_txOvf h with hkeep | ⟨⟨b, rfl⟩, hfull, hset⟩
      · exact .inl (hkeep.trans hu.txOvf)
      · exact .inr ⟨hu.txPlen ▸ hfull, hset, bs, b, u, e, hd⟩
    | error =>
      simp only [step, e, hd] at h
      cases h
      exact .inl ((malformed_txOvf bs u).trans hu.txOvf)
  · cases hd : decodeFrame bs with
    | ok i =>
      simp only [step, e, hd, exec_wireFrame (decodeFrame_space hd)] at h
      cases h
      exact .inl ((receive_txOvf _ u).trans hu.txOvf)
    | error =>
      simp only [step, e, hd] at h
      cases h
      exact .inl ((receive_txOvf bs u).trans hu.txOvf)

/-- An idle block with a full payload buffer drops the pushed byte and sets the flag (R19, R102). -/
theorem exec_txpPush_full (b : Byte) {s : State} (hidle : s.rdPhase = .idle) (hfull : s.txPlen.val = 20) :
    exec (.txpPush b) s = .next (silent (setTxOvf s)) := by
  simp [exec, execTxpPush, atPort_idle hidle, pushByte, hfull, Config.maxp]

/-- Settles O48: the setter and the clearer are single steps, and every other step is `step_txOvf`. -/
theorem onlyAFullPushSetsTxOvf : Obligations.OnlyAFullPushSetsTxOvf := by
  refine ⟨fun b s hidle hfull => ⟨_, exec_txpPush_full b hidle hfull, by simp⟩,
    fun s rest h => ⟨_, step_reset h, by simp [State.reset]⟩, fun s t h hr => ?_⟩
  rcases step_txOvf h hr with hkeep | ⟨hfull, hset, hpush⟩
  · exact ⟨fun hs => hkeep.trans hs, fun hs ht => by simp [hkeep, hs] at ht⟩
  · exact ⟨fun _ => hset, fun _ _ => ⟨hfull, hpush⟩⟩

end Sys2Proof.Machine
end

section
/-! The command port's refusals: which codes the table leaves undefined (`30_encoding.md` R73, R74), and what the step does with a
transaction that is no command (`60_exceptions.md` R161). -/
namespace Sys2Proof.Machine

/-! Reading the operands of a listed code never answers that the code is undefined. -/

@[simp] theorem operandNone_ne_undefinedCode (code c : Byte) (ops : List Byte) (i : Instr) :
    operandNone code ops i ≠ .error (.undefinedCode c) := by
  unfold operandNone
  split <;> simp

@[simp] theorem operandU8_ne_undefinedCode (code c : Byte) (ops : List Byte) (f : Byte → Instr) :
    operandU8 code ops f ≠ .error (.undefinedCode c) := by
  unfold operandU8
  split <;> simp

@[simp] theorem operandU16_ne_undefinedCode (code c : Byte) (ops : List Byte) (f : Word → Instr) :
    operandU16 code ops f ≠ .error (.undefinedCode c) := by
  unfold operandU16
  split <;> simp

@[simp] theorem operandU16U16_ne_undefinedCode (code c : Byte) (ops : List Byte) (f : Word → Word → Instr) :
    operandU16U16 code ops f ≠ .error (.undefinedCode c) := by
  unfold operandU16U16
  split <;> simp

/-- The code column of the command table (R73). -/
def listedCodes : List Nat :=
  [0x02, 0x10, 0x11, 0x20, 0x21, 0x22, 0x23, 0x24, 0x25, 0x26, 0x30, 0x31, 0x32]

/-- The decoder rejects a code as undefined exactly when the table does not list it, whatever operand bytes follow. -/
theorem decodeCoded_undefinedCode_iff (c : Byte) (ops : List Byte) :
    decodeCoded c ops = .error (.undefinedCode c) ↔ c.toNat ∉ listedCodes := by
  unfold decodeCoded
  -- One case per row of the table, closed by its operand lemma, and last the codes that match no row.
  split <;> simp_all [listedCodes]

/-- R74's ranges are the complement of the table's code column. -/
theorem undefined_ranges_iff (c : Byte) :
    (c = 0x00 ∨ c = 0x01 ∨ (0x03 ≤ c ∧ c ≤ 0x0F) ∨ (0x12 ≤ c ∧ c ≤ 0x1F) ∨ (0x27 ≤ c ∧ c ≤ 0x2F) ∨ 0x33 ≤ c) ↔
      c.toNat ∉ listedCodes := by
  simp [BitVec.le_def, ← BitVec.toNat_inj, listedCodes]
  omega

/-- A transaction at the ready port, with nothing held before it, is what the next step takes (R50). -/
theorem nextTurn_command_ready {s : State} {bytes : List Byte} {rest : List Input} (hidle : s.rdPhase = .idle)
    (hheld : s.held = []) (hin : s.inputs = .command bytes :: rest) :
    nextTurn s = .command bytes { s with inputs := rest } := by
  simp [nextTurn, idleTurn, nextInput, hidle, hheld, hin]

/-- Bytes that are no command are refused when the block is idle (R161). -/
theorem malformed_idle {s : State} (hidle : s.rdPhase = .idle) (bytes : List Byte) : malformed bytes s = refuse s :=
  atPort_idle hidle bytes refuse

/-- The ready port refuses a transaction that is no command (R161 (a), (b)). -/
theorem step_refuses_ready {s : State} {bytes : List Byte} {rest : List Input} {e : DecodeError}
    (hidle : s.rdPhase = .idle) (hheld : s.held = []) (hin : s.inputs = .command bytes :: rest)
    (hbad : decodeCommand bytes = .error e) : step s = .next (refuse { s with inputs := rest }) := by
  have hport := malformed_idle (s := { s with inputs := rest }) hidle bytes
  simp only [step, nextTurn_command_ready hidle hheld hin, hbad, hport]

/-- Settles O4: R74's ranges are the codes the table does not list, and such a transaction is refused at the ready port. -/
theorem undefinedCodesAreRefused : Obligations.UndefinedCodesAreRefused :=
  ⟨fun c ops => (undefined_ranges_iff c).trans (decodeCoded_undefinedCode_iff c ops).symm,
    fun _ _ _ _ hbad hidle hheld hin => step_refuses_ready hidle hheld hin hbad⟩

end Sys2Proof.Machine
end

section
/-! The Checksum unit (`40_checksum.md`): R90's byte step and R91's fold, and what the accumulator's commands do in an idle block. -/
namespace Sys2Proof.Machine

/-! The functions. -/

/-- The bit R90 shifts out is the register's top bit. -/
theorem crcShift_eq_msb : crcShift = fun c => if c.msb then (c <<< 1) ^^^ 0x1021 else c <<< 1 := by
  funext c
  rw [BitVec.msb_eq_getLsbD_last]
  rfl

theorem crcShifts_eq_iterate (n : Nat) (c : Word) : crcShifts n c = crcShift^[n] c := by
  induction n generalizing c with
  | zero => rfl
  | succ n ih => exact ih (crcShift c)

theorem crcUpdate_eq_iterate (c : Word) (b : Byte) : crcUpdate c b = crcShift^[8] (c ^^^ (b.setWidth 16 <<< 8)) := by
  rw [crcUpdate, crcShifts_eq_iterate, crcInput_eq]

/-- Settles O14: the recursion is an iteration, and the shift tests the top bit. -/
theorem crcUpdateIsEightShifts : Obligations.CrcUpdateIsEightShifts := by
  refine ⟨fun c b => ?_, by decide, by decide⟩
  rw [crcUpdate_eq_iterate, crcShift_eq_msb]

/-- A range is summed by continuing from the sum of its first part (R91). -/
theorem crc16_append (bs more : List Byte) : crc16 (bs ++ more) = more.foldl crcUpdate (crc16 bs) := by
  simp only [crc16_eq, List.foldl_append]

/-- Settles O15: one further byte is the shortest continuation. -/
theorem checksumFoldsOverTheBytes : Obligations.ChecksumFoldsOverTheBytes :=
  ⟨crc16_eq [], fun bs b => crc16_append bs [b]⟩

/-! The commands. -/

theorem exec_crcClr_idle {s : State} (h : s.rdPhase = .idle) :
    exec .crcClr s = .next { s with crc := Config.crcInit, resp := none } :=
  congrArg Host.Outcome.next (atPort_idle h ..)

theorem exec_crcUpd_idle (b : Byte) {s : State} (h : s.rdPhase = .idle) :
    exec (.crcUpd b) s = .next { s with crc := crcUpdate s.crc b, resp := none } :=
  congrArg Host.Outcome.next (atPort_idle h ..)

/-- Register 1 is the accumulator, handed out as it is (R22, R94). -/
theorem regValue_crc (s : State) : regValue 1 s = some s.crc := congrArg some (crcOutput_eq s.crc)

/-- A register in range is answered, nothing else changes (R160). -/
theorem exec_rdreg_idle {s : State} (h : s.rdPhase = .idle) {n : Byte} {v : Word} (hv : regValue n s = some v) :
    exec (.rdreg n) s = .next { s with resp := some v } := by
  rw [exec, execRdreg, atPort_idle h, hv]
  rfl

/-- Settles O17: the command runs at the ready port. -/
theorem crcClrZeroesTheAccumulator : Obligations.CrcClrZeroesTheAccumulator :=
  ⟨rfl, fun _ => exec_crcClr_idle⟩

/-- Settles O18: the command runs at the ready port; the two sums are computed. -/
theorem crcUpdAddsOneByte : Obligations.CrcUpdAddsOneByte :=
  ⟨fun _ => rfl, fun b _ => exec_crcUpd_idle b, by decide, by decide⟩

/-! The programs. -/

/-- A program runs its first part, and its second from the state that leaves. -/
theorem runCommands_append (is js : List Instr) (s : State) :
    runCommands (is ++ js) s = andThen (runCommands is s) (runCommands js) := by
  induction is generalizing s with
  | nil => rfl
  | cons i is ih =>
    obtain ⟨t, ht⟩ := exec_isNext i s
    simp only [List.cons_append, runCommands, ht, andThen_next, ih]

theorem runCommands_crcRd {s : State} (h : s.rdPhase = .idle) : runCommands crcRd s = .next { s with resp := some s.crc } := by
  rw [crcRd, runCommands, exec_rdreg_idle h (regValue_crc s), andThen_next, runCommands]

/-- CRC_UPD per byte, then CRC_RD: the sum goes on from whatever the accumulator holds (R93, R94). -/
theorem runCommands_crcUpds_crcRd (bs : List Byte) {s : State} (h : s.rdPhase = .idle) :
    runCommands (bs.map .crcUpd ++ crcRd) s =
      .next { s with crc := bs.foldl crcUpdate s.crc, resp := some (bs.foldl crcUpdate s.crc) } := by
  induction bs generalizing s with
  | nil => exact runCommands_crcRd h
  | cons b bs ih =>
    rw [List.map_cons, List.cons_append, runCommands, exec_crcUpd_idle b h, andThen_next,
      ih (s := { s with crc := crcUpdate s.crc b, resp := none }) h, List.foldl_cons]

/-- The commands of `checksum(bs)` forget what the accumulator held (R77, R94). -/
theorem runCommands_checksumProgram (bs : List Byte) {s : State} (h : s.rdPhase = .idle) :
    runCommands (checksumProgram bs) s = .next { s with crc := crc16 bs, resp := some (crc16 bs) } := by
  rw [checksumProgram, List.cons_append, runCommands, exec_crcClr_idle h, andThen_next,
    runCommands_crcUpds_crcRd bs (s := { s with crc := Config.crcInit, resp := none }) h, crc16_eq]

/-- Settles O22: reading keeps the accumulator, so updates after a read continue the sum (`crc16_append`). -/
theorem checksumProgramComputesCrc16 : Obligations.ChecksumProgramComputesCrc16 := by
  refine ⟨fun _ => runCommands_crcRd, fun bs _ => runCommands_checksumProgram bs, fun bs more s h => ?_, by decide +kernel⟩
  rw [List.append_assoc, runCommands_append, runCommands_checksumProgram bs h, andThen_next,
    runCommands_crcUpds_crcRd more (s := { s with crc := crc16 bs, resp := some (crc16 bs) }) h, crc16_append]

end Sys2Proof.Machine
end

section
/-! The frame encoder (`41_frame_encoder.md`): R100's layout of a frame, and what each of the encoder's commands does in an idle
block. -/
namespace Sys2Proof.Machine

/-! The layout of a frame (R61, R100). -/

/-- A frame written out byte by byte. -/
theorem frameBytes_eq_cons (kind : Byte) (seq total : Word) (p : List Byte) : frameBytes kind seq total p =
    (crc16 (frameBody kind seq total p)).extractLsb' 8 8 :: (crc16 (frameBody kind seq total p)).extractLsb' 0 8 :: kind ::
      seq.extractLsb' 8 8 :: seq.extractLsb' 0 8 :: total.extractLsb' 8 8 :: total.extractLsb' 0 8 ::
      (BitVec.ofNat 16 p.length).extractLsb' 8 8 :: (BitVec.ofNat 16 p.length).extractLsb' 0 8 :: p := by
  rw [frameBytes_eq_wireBytes, wireBytes_eq]

/-- What the checksum is taken over is the frame without its checksum field. -/
theorem frameBytes_drop_checksum (kind : Byte) (seq total : Word) (p : List Byte) :
    (frameBytes kind seq total p).drop 2 = frameBody kind seq total p :=
  List.drop_left' (wireSplit_length _)

theorem frameBytes_drop_header (kind : Byte) (seq total : Word) (p : List Byte) :
    (frameBytes kind seq total p).drop 9 = p := by
  rw [frameBytes_eq_cons]
  rfl

theorem frameBytes_kind (kind : Byte) (seq total : Word) (p : List Byte) : (frameBytes kind seq total p).getD 2 0 = kind := by
  rw [frameBytes_eq_cons]
  rfl

theorem frameBytes_checksum (kind : Byte) (seq total : Word) (p : List Byte) :
    field16 (frameBytes kind seq total p) 0 = crc16 (frameBody kind seq total p) := by
  rw [frameBytes_eq_cons]
  exact be16Join_halves _

theorem frameBytes_sequence (kind : Byte) (seq total : Word) (p : List Byte) :
    field16 (frameBytes kind seq total p) 3 = seq := by
  rw [frameBytes_eq_cons]
  exact be16Join_halves _

theorem frameBytes_total (kind : Byte) (seq total : Word) (p : List Byte) :
    field16 (frameBytes kind seq total p) 5 = total := by
  rw [frameBytes_eq_cons]
  exact be16Join_halves _

theorem frameBytes_lengthField (kind : Byte) (seq total : Word) (p : List Byte) :
    field16 (frameBytes kind seq total p) 7 = BitVec.ofNat 16 p.length := by
  rw [frameBytes_eq_cons]
  exact be16Join_halves _

/-- Settles O29: each field by its own lemma; the bound makes the 16-bit length field the length itself. -/
theorem frameBytesLayout : Obligations.FrameBytesLayout := by
  intro k q w p hp
  refine ⟨frameBytes_length k q w p, frameBytes_kind k q w p, frameBytes_sequence k q w p, frameBytes_total k q w p, ?_,
    frameBytes_drop_header k q w p, ?_⟩
  · rw [frameBytes_lengthField]
    exact index_toNat (Nat.lt_succ_of_le hp) le_rfl
  · rw [frameBytes_checksum, frameBytes_drop_checksum]

/-! The payload buffer. -/

theorem exec_txpClr_idle {s : State} (h : s.rdPhase = .idle) :
    exec .txpClr s = .next { s with txPlen := 0, resp := none } :=
  congrArg Host.Outcome.next (atPort_idle h ..)

theorem exec_txpPush_idle (b : Byte) {s : State} (h : s.rdPhase = .idle) : exec (.txpPush b) s = .next (pushByte b s) :=
  congrArg Host.Outcome.next (atPort_idle h ..)

/-- Below MAXP the byte is appended and counted, nothing else changes (R102). -/
theorem pushByte_room (b : Byte) {s : State} (h : s.txPlen.val < Config.maxp) : pushByte b s =
    { s with txp := memWrite s.txp s.txPlen.val b, txPlen := ⟨s.txPlen.val + 1, Nat.succ_lt_succ h⟩, resp := none } :=
  dif_pos h

/-- Settles O24: the command runs at the ready port. -/
theorem txpClrEmptiesThePayload : Obligations.TxpClrEmptiesThePayload :=
  ⟨rfl, fun _ => exec_txpClr_idle⟩

/-- Settles O25: with room the push is one write at index `tx_plen`; without, it only sets the flag. -/
theorem txpPushAppendsOrOverflows : Obligations.TxpPushAppendsOrOverflows := by
  refine ⟨fun _ => rfl, fun b s hidle hwf hroom => ?_, fun b s hidle hfull => exec_txpPush_full b hidle hfull⟩
  rw [exec_txpPush_idle b hidle, pushByte_room b hroom]
  exact ⟨_, rfl, memRead_memWrite_same hwf _ b, rfl, fun a ha => memRead_memWrite_other _ b ha.symm, rfl⟩

/-! The frame buffer. -/

/-- A command that stores a frame: the frame is in `txf` with its length in `tx_flen`, nothing else changes (R103 to R106). -/
theorem exec_stores_frame {i : Instr} {kind : Byte} {seq total : Word} {p : List Byte} {hp : p.length ≤ Config.maxp} {s : State}
    (hrun : exec i s = .next (storeFrame kind seq total p hp s)) (hwf : Memory.wf s.txf = true) :
    ∃ t, exec i s = .next t ∧ t.txFlen.val = 9 + p.length ∧ memSlice t.txf 0 (9 + p.length) = frameBytes kind seq total p ∧
      (∀ a, 9 + p.length ≤ a → memRead t.txf a = memRead s.txf a) ∧
      { t with txf := s.txf, txFlen := s.txFlen } = { s with resp := none } :=
  ⟨_, hrun, frameBytes_length kind seq total p, storeFrame_slice kind seq total p hp hwf,
    fun _ => storeFrame_outside kind seq total p hp s, rfl⟩

theorem exec_encData_idle (seq total : Word) {s : State} (h : s.rdPhase = .idle) :
    exec (.encData seq total) s = .next (storeFrame Config.kData seq total (payload s) (payload_length_le s) s) :=
  congrArg Host.Outcome.next (atPort_idle h ..)

theorem exec_encAck_idle (seq total : Word) {s : State} (h : s.rdPhase = .idle) :
    exec (.encAck seq total) s = .next (storeControl Config.kAck seq total s) :=
  congrArg Host.Outcome.next (atPort_idle h ..)

theorem exec_encNack_idle (seq total : Word) {s : State} (h : s.rdPhase = .idle) :
    exec (.encNack seq total) s = .next (storeControl Config.kNack seq total s) :=
  congrArg Host.Outcome.next (atPort_idle h ..)

theorem exec_encErr_idle {s : State} (h : s.rdPhase = .idle) : exec .encErr s = .next (storeControl Config.kErr 0 0 s) :=
  congrArg Host.Outcome.next (atPort_idle h ..)

/-- Settles O26: the stored frame's payload is the slice of `txp`, of length `tx_plen`. -/
theorem encDataStoresTheFrame : Obligations.EncDataStoresTheFrame := by
  refine ⟨fun _ _ _ _ => rfl, fun q w s hidle hwf => ?_⟩
  obtain ⟨t, ht, hlen, hslice, hbeyond, hrest⟩ := exec_stores_frame (exec_encData_idle q w hidle) hwf
  have hplen : (payload s).length = s.txPlen.val := memSlice_length ..
  rw [← hlen] at hslice
  rw [hplen] at hlen hbeyond
  exact ⟨t, ht, hlen, hslice, hbeyond, hrest⟩

/-- Settles O27: each of the three commands stores a frame without payload. -/
theorem encControlStoresNineBytes : Obligations.EncControlStoresNineBytes := by
  refine ⟨fun _ _ _ _ => ⟨rfl, rfl, rfl⟩, fun q w s hidle hwf i frame hcase => ?_⟩
  obtain ⟨rfl, rfl⟩ | ⟨rfl, rfl⟩ | ⟨rfl, rfl⟩ := hcase
  · exact exec_stores_frame (exec_encAck_idle q w hidle) hwf
  · exact exec_stores_frame (exec_encNack_idle q w hidle) hwf
  · exact exec_stores_frame (exec_encErr_idle hidle) hwf

theorem exec_txfRd_idle (i : Word) {s : State} (h : s.rdPhase = .idle) :
    exec (.txfRd i) s = .next (answerOperand (bufferByte s.txf s.txFlen.val i) s) :=
  congrArg Host.Outcome.next (atPort_idle h ..)

/-- An indexed read answers the byte below the count and is refused from the count on (R107, R122). -/
theorem answerOperand_bufferByte (m : Memory) (count : Nat) (i : Word) (s : State) :
    answerOperand (bufferByte m count i) s =
      if i.toNat < count then { s with resp := some ((memRead m i.toNat).setWidth 16) }
      else { s with cmdErr := true, resp := some 0x0000 } := by
  unfold bufferByte
  split <;> rfl

/-- Settles O28: at the ready port the command is an indexed read of `txf`. -/
theorem txfRdReadsTheFrame : Obligations.TxfRdReadsTheFrame :=
  ⟨fun _ _ => rfl, fun i s hidle => by rw [exec_txfRd_idle i hidle, answerOperand_bufferByte]⟩

end Sys2Proof.Machine
end

section
/-! The frame decoder (`42_frame_decoder.md`): R120's test of a whole byte range, and what the decoder's two commands do in an idle
block. -/
namespace Sys2Proof.Machine

/-! The test of a whole byte range (R120). -/

/-- A 16-bit field is the value of the two bytes it is read from. -/
theorem wireSplit_field16 (bs : List Byte) (i : Nat) : wireSplit (field16 bs i) = [bs.getD i 0, bs.getD (i + 1) 0] := by
  rw [field16, wireSplit_eq, wireJoin_eq, be16_join]

/-- A range with the right length field is, after its checksum field, an encoding of its fields. -/
theorem frameBody_of_fields {bs : List Byte} (hlen : 9 + (field16 bs 7).toNat = bs.length) :
    frameBody (bs.getD 2 0) (field16 bs 3) (field16 bs 5) (bs.drop 9) = bs.drop 2 := by
  have hfield : BitVec.ofNat 16 (bs.drop 9).length = field16 bs 7 := by
    rw [List.length_drop, ← hlen, Nat.add_sub_cancel_left, BitVec.ofNat_toNat, BitVec.setWidth_eq]
  have hheader : 9 ≤ bs.length := by omega
  rw [frameBody, hfield, wireSplit_field16, wireSplit_field16, wireSplit_field16]
  match bs, hheader with
  | _ :: _ :: _ :: _ :: _ :: _ :: _ :: _ :: _ :: _, _ => rfl

/-- A range with the right length field and the right checksum is the encoding of its fields. -/
theorem frameBytes_of_fields {bs : List Byte} (hlen : 9 + (field16 bs 7).toNat = bs.length)
    (hsum : crc16 (bs.drop 2) = field16 bs 0) :
    frameBytes (bs.getD 2 0) (field16 bs 3) (field16 bs 5) (bs.drop 9) = bs := by
  have hchecksum : 2 ≤ bs.length := by omega
  rw [frameBytes, frameBody_of_fields hlen, hsum, wireSplit_field16]
  match bs, hchecksum with
  | _ :: _ :: _, _ => rfl

/-- A frame that decodes from a whole range has the length it announces, and the range is its encoding. -/
theorem encoded_of_decodeAndVerify {bs : List Byte} {f : Frame} (h : decodeAndVerify bs bs.length = some f) :
    f.payload.length = f.length.toNat ∧ bs = frameBytes f.kind f.sequence f.total f.payload := by
  unfold decodeAndVerify at h
  split_ifs at h with hshort hlen hsum
  rw [List.take_length] at hsum h
  obtain rfl := Option.some.inj h
  have hlen : 9 + (field16 bs 7).toNat = bs.length := not_not.mp hlen
  refine ⟨?_, (frameBytes_of_fields hlen (not_not.mp hsum)).symm⟩
  show (bs.drop 9).length = (field16 bs 7).toNat
  rw [List.length_drop, ← hlen, Nat.add_sub_cancel_left]

/-- The encoding of a frame decodes to it (R128 (a)). -/
theorem decodeAndVerify_frameBytes {f : Frame} (h : f.payload.length = f.length.toNat) :
    decodeAndVerify (frameBytes f.kind f.sequence f.total f.payload) (9 + f.payload.length) = some f := by
  have hfield : BitVec.ofNat 16 f.payload.length = f.length := by rw [h, BitVec.ofNat_toNat, BitVec.setWidth_eq]
  have htake := List.take_of_length_le (frameBytes_length f.kind f.sequence f.total f.payload).le
  simp only [decodeAndVerify, Config.hdr, frameBytes_lengthField, hfield, ← h, htake, frameBytes_drop_checksum,
    frameBytes_checksum, frameBytes_kind, frameBytes_sequence, frameBytes_total, frameBytes_drop_header]
  rw [if_neg (Nat.not_lt.mpr (Nat.le_add_right ..)), if_neg (not_not.mpr rfl), if_neg (not_not.mpr rfl)]

/-- A whole range decodes to a frame exactly when it is the frame's encoding (R120). -/
theorem decodeAndVerify_length_iff {bs : List Byte} {f : Frame} : decodeAndVerify bs bs.length = some f ↔
    f.payload.length = f.length.toNat ∧ bs = frameBytes f.kind f.sequence f.total f.payload := by
  refine ⟨encoded_of_decodeAndVerify, fun ⟨hlen, hbs⟩ => ?_⟩
  rw [hbs, frameBytes_length]
  exact decodeAndVerify_frameBytes hlen

/-- The accumulated bytes decode to a frame exactly when they are its encoding (R121). -/
theorem decodeAndVerify_received_iff {s : State} {f : Frame} : decodeAndVerify (received s) s.rxCount.val = some f ↔
    f.payload.length = f.length.toNat ∧ received s = frameBytes f.kind f.sequence f.total f.payload := by
  have hcount : (received s).length = s.rxCount.val := memSlice_length ..
  rw [← hcount]
  exact decodeAndVerify_length_iff

/-! The commands. -/

theorem exec_decode_idle {s : State} (h : s.rdPhase = .idle) :
    exec .decode s = .next (storeDecoded (decodeAndVerify (received s) s.rxCount.val) s) :=
  congrArg Host.Outcome.next (atPort_idle h ..)

/-- Settles O35: the decoder's result is `some` exactly for an encoding, and DECODE stores it. -/
theorem decodeStoresTheResult : Obligations.DecodeStoresTheResult := by
  refine ⟨rfl, fun s f hidle hlen hbytes => ?_, fun s hidle hnone => ?_⟩
  · rw [exec_decode_idle hidle, decodeAndVerify_received_iff.mpr ⟨hlen, hbytes⟩]
    rfl
  · have hinvalid : decodeAndVerify (received s) s.rxCount.val = none :=
      Option.eq_none_iff_forall_ne_some.mpr fun f hf => hnone f (decodeAndVerify_received_iff.mp hf)
    rw [exec_decode_idle hidle, hinvalid]
    rfl

theorem exec_rxbRd_idle (i : Word) {s : State} (h : s.rdPhase = .idle) :
    exec (.rxbRd i) s = .next (answerOperand (bufferByte s.rxb s.rxCount.val i) s) :=
  congrArg Host.Outcome.next (atPort_idle h ..)

/-- Settles O36: at the ready port the command is an indexed read of `rxb`, as TXF_RD is of `txf`. -/
theorem rxbRdReadsTheBuffer : Obligations.RxbRdReadsTheBuffer :=
  ⟨fun _ _ => rfl, fun i s hidle => by rw [exec_rxbRd_idle i hidle, answerOperand_bufferByte]⟩

end Sys2Proof.Machine
end

section
/-! The Message Reader (`43_message_reader.md`): the start of a read (R136), the read abort at a timeout (R140), and one burst as
R137's pseudocode gives it. -/
namespace Sys2Proof.Machine

/-! The start and the abort of a read. -/

theorem exec_readFrame_idle {s : State} (h : s.rdPhase = .idle) : exec .readFrame s = .next (beginRead s) :=
  congrArg Host.Outcome.next (atPort_idle h ..)

/-- Settles O37: at the ready port the command is the start of a read. -/
theorem readFrameStartsARead : Obligations.ReadFrameStartsARead :=
  ⟨rfl, fun s hidle => ⟨beginRead s, exec_readFrame_idle hidle, rfl, rfl, rfl⟩⟩

/-- A timeout that is next acts at once (R51). -/
theorem step_rxTimeout {s : State} {rest : List Input} (h : s.inputs = .rxTimeout :: rest) :
    step s = .next (rxTimeout { s with inputs := rest }) := by
  simp [step, nextTurn, nextInput, h]

/-- Inside a read a timeout is the read abort (R140). -/
theorem rxTimeout_busy {s : State} (h : s.rdPhase ≠ .idle) : rxTimeout s = readAbort s := if_neg h

/-- With nothing accumulated every indexed read of `rxb` is refused (R122, R161). -/
theorem exec_rxbRd_empty (i : Word) {s : State} (hidle : s.rdPhase = .idle) (hempty : s.rxCount.val = 0) :
    exec (.rxbRd i) s = .next { s with cmdErr := true, resp := some 0 } := by
  rw [exec_rxbRd_idle i hidle, answerOperand_bufferByte, hempty, if_neg (Nat.not_lt_zero _)]

/-- Fewer bytes than a header are no frame (R120). -/
theorem decodeAndVerify_short (bs : List Byte) {n : Nat} (h : n < 9) : decodeAndVerify bs n = none := if_pos h

/-- With nothing accumulated DECODE finds no frame (R121). -/
theorem exec_decode_empty {s : State} (hidle : s.rdPhase = .idle) (hempty : s.rxCount.val = 0) :
    exec .decode s = .next (answer 0 (clearDecoded s)) := by
  rw [exec_decode_idle hidle, decodeAndVerify_short _ (by omega)]
  rfl

/-- Settles O13: the step is the read abort, after which the block is idle with nothing accumulated. -/
theorem timeoutAbortsTheRead : Obligations.TimeoutAbortsTheRead := by
  intro s rest hbusy hin
  exact ⟨readAbort { s with inputs := rest }, (step_rxTimeout hin).trans (congrArg _ (rxTimeout_busy hbusy)),
    rfl, rfl, rfl, rfl, rfl, rfl, fun i => exec_rxbRd_empty i rfl rfl, _, exec_decode_empty rfl rfl, rfl, rfl⟩

/-! An arrival is received whatever its bytes decode to (R55, R148). -/

/-- The instruction of a header's fields and a payload is encoded in just these (R61, R63, R65). -/
theorem encode_of_decodeKind {kind : Byte} {ck q w l : Word} {p : List Byte} {i : Instr}
    (h : decodeKind kind ck q w l p = .ok i) : encode i = wireBytes ck kind q w l p := by
  unfold decodeKind at h
  split_ifs at h with hlen hdata hkind hzero hack hnack
  · have hfield : BitVec.ofNat 16 p.length = l := by rw [not_not.mp hlen, BitVec.ofNat_toNat, BitVec.setWidth_eq]
    cases h
    rw [encode, hfield, hdata]
  all_goals
    obtain rfl : l = 0 := BitVec.eq_of_toNat_eq (not_not.mp hzero)
    obtain rfl : p = [] := List.length_eq_zero_iff.mp (not_not.mp hlen)
    cases h
  · rw [encode, hack]
  · rw [encode, hnack]
  · have herr : kind = Config.kErr := by tauto
    rw [encode, herr]

/-- Bytes that decode to a frame are its encoding (R64). -/
theorem encode_of_decodeFrame {bs : List Byte} {i : Instr} (h : decodeFrame bs = .ok i) : encode i = bs := by
  unfold decodeFrame at h
  split at h
  · simp [encode_of_decodeKind h, wireBytes_eq]
  · cases h

/-- Bytes the channel's read returns are received, as a whole frame or as other bytes (R55, R148). -/
theorem step_burst {s u : State} {bs : List Byte} (h : nextTurn s = .burst bs u) : step s = .next (receive bs u) := by
  simp only [step, h]
  cases hd : decodeFrame bs with
  | ok i => exact (exec_wireFrame (decodeFrame_space hd) u).trans (by rw [encode_of_decodeFrame hd])
  | error => rfl

/-- Inside a read, with nothing waiting in the channel, bytes that come next are what the step takes (R40). -/
theorem nextTurn_burst {s : State} {bs : List Byte} {rest : List Input} (hbusy : s.rdPhase ≠ .idle) (hchan : s.chan = [])
    (hin : s.inputs = .rxBurst bs :: rest) : nextTurn s = .burst bs { s with inputs := rest } := by
  simp [nextTurn, busyTurn, nextInput, hbusy, hchan, hin]

/-- A burst within R137's bounds is one accumulation step. -/
theorem ArrivesNext.step_eq {bs : List Byte} {rest : List Input} {s : State} (h : ArrivesNext bs rest s) :
    step s = .next (rxBurst bs { s with inputs := rest }) :=
  (step_burst (nextTurn_burst h.busy h.chan h.inputs)).trans
    (congrArg _ (receive_fits h.busy h.nonempty ((room_eq _).symm ▸ h.fits)))

/-! One burst (R137 to R139). -/

/-- A burst touches nothing outside the reader. -/
theorem rxBurst_onlyReaderChanged (bs : List Byte) (s : State) : OnlyReaderChanged s (rxBurst bs s) := by
  obtain ⟨c, n, p, r, e⟩ := rxBurst_only bs s
  rw [e]
  rfl

/-- What follows the append leaves the buffer's bytes alone. -/
@[simp] theorem afterAppend_rxb (s : State) : (afterAppend s).rxb = s.rxb := by
  obtain ⟨c, n, p, r, e⟩ := afterAppend_only s
  rw [e]

@[simp] theorem completionTest_rxb (s : State) : (completionTest s).rxb = s.rxb := by
  obtain ⟨c, n, p, r, e⟩ := completionTest_only s
  rw [e]

@[simp] theorem completionTest_rxCount (s : State) : (completionTest s).rxCount = s.rxCount := by
  rcases completionTest_cases s with ⟨_, _, e⟩ | ⟨_, e⟩ <;> rw [e] <;> rfl

@[simp] theorem completionTest_rxNeed (s : State) : (completionTest s).rxNeed = s.rxNeed := by
  rcases completionTest_cases s with ⟨_, _, e⟩ | ⟨_, e⟩ <;> rw [e] <;> rfl

/-- The completion test ends the read with the byte count, or answers nothing and leaves the phase (R139). -/
theorem completionTest_outcome (s : State) :
    if s.rdPhase = .pay ∧ s.rxNeed.val ≤ s.rxCount.val then
      (completionTest s).rdPhase = .idle ∧ (completionTest s).resp = some (BitVec.ofNat 16 s.rxCount.val)
    else (completionTest s).rdPhase = s.rdPhase ∧ (completionTest s).resp = none := by
  rcases completionTest_cases s with ⟨hpay, hmet, e⟩ | ⟨hwait, e⟩
  · rw [if_pos ⟨hpay, hmet⟩, e]
    exact ⟨rfl, rfl⟩
  · rw [if_neg hwait, e]
    exact ⟨rfl, rfl⟩

/-- The step of a burst within R137's bounds: the bytes are appended whole, then comes what follows the append. -/
theorem ArrivesNext.appends {bs : List Byte} {rest : List Input} {s : State} (h : ArrivesNext bs rest s) :
    ∃ a, step s = .next (afterAppend a) ∧ OnlyReaderChanged { s with inputs := rest } (afterAppend a) ∧
      a.rxb = memWriteBytes s.rxb s.rxCount.val bs ∧ a.rxCount.val = s.rxCount.val + bs.length ∧
      a.rxNeed = s.rxNeed ∧ a.rdPhase = s.rdPhase := by
  have hwhole : bs.take (room { s with inputs := rest }) = bs := List.take_of_length_le ((room_eq _).symm ▸ h.fits)
  refine ⟨appendBytes bs { s with inputs := rest }, h.step_eq, rxBurst_onlyReaderChanged .., ?_, ?_, rfl, rfl⟩
  · rw [appendBytes_rxb, hwhole]
  · simp [hwhole]

/-- A block that meets R27 needs more than it has while it is busy. -/
theorem BlockInv.rxCount_lt_rxNeed {s : State} (h : BlockInv s) (hbusy : s.rdPhase ≠ .idle) :
    s.rxCount.val < s.rxNeed.val := by
  cases hp : s.rdPhase with
  | idle => exact absurd hp hbusy
  | hdr =>
    obtain ⟨hcount, hneed⟩ := h.hdr hp
    omega
  | pay =>
    obtain ⟨_, hlt, _⟩ := h.pay hp
    exact hlt

/-- Settles O38: the buffer by the laws of a run of writes, the rest by the branches of what follows the append. -/
theorem burstFollowsThePseudocode : Obligations.BurstFollowsThePseudocode := by
  refine ⟨fun s hinv hbusy => ?_, fun bs rest s harr hwf => ?_⟩
  · have hlt := hinv.rxCount_lt_rxNeed hbusy
    have hcap : s.rxNeed.val < 1500 + 1 := s.rxNeed.isLt
    exact ⟨hlt, by omega⟩
  obtain ⟨a, hstep, honly, hrxb, hcount, hneed, hphase⟩ := harr.appends
  refine ⟨_, hstep, honly, ?_⟩
  rw [afterAppend_rxb, ← hcount, ← hneed, ← hphase]
  refine ⟨fun x hx => ?_, fun j hj => ?_, ?_⟩
  · rw [hrxb, memRead_memWriteBytes_outside _ _ _ (hcount ▸ hx)]
  · rw [hrxb, memRead_memWriteBytes_inside hwf _ _ hj]
  rcases afterAppend_cases a with ⟨hhdr, (hnine : 9 ≤ a.rxCount.val), e⟩ |
    ⟨(hno : ¬ (a.rdPhase = .hdr ∧ 9 ≤ a.rxCount.val)), e⟩ <;> rw [e]
  · rw [if_pos ⟨hhdr, hnine⟩]
    rcases inspectHeader_cases a with ⟨(hother : memRead a.rxb 2 ≠ 0x01), e⟩ |
      ⟨(hdata : memRead a.rxb 2 = 0x01), (hbig : 1500 < 9 + (memField16 a.rxb 7).toNat), e⟩ |
      ⟨(hdata : memRead a.rxb 2 = 0x01), hfit, e⟩ <;> rw [e]
    · rw [if_neg hother]
      exact ⟨rfl, rfl, rfl, rfl⟩
    · rw [if_pos hdata, if_pos hbig]
      exact ⟨rfl, rfl, rfl, rfl⟩
    · have hsmall : ¬ 1500 < 9 + (memField16 a.rxb 7).toNat := Nat.not_lt.mpr hfit
      rw [if_pos hdata, if_neg hsmall]
      simpa [announced, Config.hdr] using completionTest_outcome (awaitPayload a hfit)
  · rw [if_neg hno]
    simpa using completionTest_outcome a

end Sys2Proof.Machine
end

section
/-! The system operations (`44_system_ops.md`): every register of RDREG (R160), and the refusal of a command with its sticky flag
`cmd_err` (R161, R20). -/
namespace Sys2Proof.Machine

/-! RDREG. -/

/-- The STATUS view is the sum of its three bits (R21). -/
theorem statusWord_eq_sum (s : State) :
    statusWord s = (if s.rxValid then 1 else 0) + (if s.txOvf then 2 else 0) + (if s.cmdErr then 4 else 0) := by
  unfold statusWord
  generalize s.rxValid = a, s.txOvf = b, s.cmdErr = c
  decide +revert

/-- The register numbers end at 10 (R22). -/
theorem regValue_undefined {n : Byte} (hn : 10 < n.toNat) (s : State) : regValue n s = none := by
  unfold regValue
  split
  -- The last case is the undefined number; in every other one `n` is one of 0 to 10.
  case h_12 => rfl
  all_goals omega

/-- An undefined register number is refused at the ready port (R161 (c)). -/
theorem exec_rdreg_undefined {n : Byte} {s : State} (hidle : s.rdPhase = .idle) (hn : 10 < n.toNat) :
    exec (.rdreg n) s = .next (refuse s) := by
  rw [exec, execRdreg, atPort_idle hidle, regValue_undefined hn, answerOperand]

/-- Settles O47: every number answers its register's value, and STATUS is the sum of its bits. -/
theorem rdregReadsEveryRegister : Obligations.RdregReadsEveryRegister := by
  refine ⟨fun _ => rfl, fun s hidle => ?_⟩
  have reads {n : Byte} {v : Word} (hv : regValue n s = some v) := exec_rdreg_idle hidle hv
  exact ⟨reads (congrArg some (statusWord_eq_sum s)), reads (regValue_crc s), reads rfl, reads rfl, reads rfl, reads rfl,
    reads rfl, reads rfl, reads rfl, reads rfl, reads rfl, fun _ => exec_rdreg_undefined hidle⟩

/-! Refused commands at the ready port. -/

/-- The ready port runs a transaction that decodes. -/
theorem step_runs_ready {s : State} {bytes : List Byte} {rest : List Input} {i : Instr} (hidle : s.rdPhase = .idle)
    (hheld : s.held = []) (hin : s.inputs = .command bytes :: rest) (hok : decodeCommand bytes = .ok i) :
    step s = exec i { s with inputs := rest } := by
  simp only [step, nextTurn_command_ready hidle hheld hin, hok]

/-- An index at or beyond the count is refused (R161 (d), (e)). -/
theorem answerOperand_bufferByte_beyond {m : Memory} {count : Nat} {i : Word} (h : count ≤ i.toNat) (s : State) :
    answerOperand (bufferByte m count i) s = refuse s := by
  rw [answerOperand_bufferByte, if_neg (Nat.not_lt.mpr h)]
  rfl

/-- A transaction of one of R161's sorts is refused at the ready port. -/
theorem RefusedAt.step_eq {s : State} {bytes : List Byte} {rest : List Input} (hidle : s.rdPhase = .idle)
    (hheld : s.held = []) (hin : s.inputs = .command bytes :: rest) (h : RefusedAt bytes s) :
    step s = .next (refuse { s with inputs := rest }) := by
  have runs {i : Instr} := step_runs_ready (i := i) hidle hheld hin
  obtain ⟨_, _, hbad⟩ | ⟨n, hok, hn⟩ | ⟨i, hok, hi⟩ | ⟨i, hok, hi⟩ := h
  · exact step_refuses_ready hidle hheld hin hbad
  · rw [runs hok, exec_rdreg_undefined (s := { s with inputs := rest }) hidle hn]
  · rw [runs hok, exec_txfRd_idle i (s := { s with inputs := rest }) hidle, answerOperand_bufferByte_beyond hi]
  · rw [runs hok, exec_rxbRd_idle i (s := { s with inputs := rest }) hidle, answerOperand_bufferByte_beyond hi]

/-! The sticky flag `cmd_err` (R20): the operations above the named updates, the instructions, the steps. -/

/-- The flag is kept, or an idle block sets it: what every step but RESET does to it (R161, R143). -/
def CmdErrKeptOrSet (s t : State) : Prop := t.cmdErr = s.cmdErr ∨ (s.rdPhase = .idle ∧ t.cmdErr = true)

theorem CmdErrKeptOrSet.sticky {s t : State} (h : CmdErrKeptOrSet s t) (hs : s.cmdErr = true) : t.cmdErr = true :=
  h.elim (·.trans hs) And.right

theorem CmdErrKeptOrSet.busy {s t : State} (h : CmdErrKeptOrSet s t) (hbusy : s.rdPhase ≠ .idle) : t.cmdErr = s.cmdErr :=
  h.resolve_right fun hset => hbusy hset.1

/-- What waits at the port, in the channel and outside makes no difference to the flag. -/
theorem SameBlock.cmdErrKeptOrSet {s u t : State} (hu : SameBlock s u) (h : CmdErrKeptOrSet u t) : CmdErrKeptOrSet s t := by
  rw [hu] at h
  exact h

@[simp] theorem receive_cmdErr (bs : List Byte) (s : State) : (receive bs s).cmdErr = s.cmdErr := by
  obtain ⟨_, _, _, _, _, _, e⟩ := receive_only bs s
  rw [e]

@[simp] theorem rxTimeout_cmdErr (s : State) : (rxTimeout s).cmdErr = s.cmdErr := by
  unfold rxTimeout
  split <;> simp

@[simp] theorem storeDecoded_cmdErr (r : Option Frame) (s : State) : (storeDecoded r s).cmdErr = s.cmdErr := by
  cases r <;> rfl

@[simp] theorem pushByte_cmdErr (b : Byte) (s : State) : (pushByte b s).cmdErr = s.cmdErr := by
  rcases pushByte_cases b s with ⟨_, e⟩ | ⟨_, e⟩ <;> simp [e]

theorem answerOperand_cmdErr (v : Option Word) (s : State) :
    (answerOperand v s).cmdErr = s.cmdErr ∨ (answerOperand v s).cmdErr = true := by
  cases v
  · exact .inr rfl
  · exact .inl rfl

/-- A command that keeps or sets the flag when it runs does so at the port, and only when the block is idle (R143). -/
theorem atPort_cmdErr {run : State → State} {s : State} (h : (run s).cmdErr = s.cmdErr ∨ (run s).cmdErr = true)
    (bytes : List Byte) : CmdErrKeptOrSet s (atPort bytes run s) := by
  rcases atPort_cases bytes run s with ⟨hidle, e⟩ | ⟨_, e⟩ <;> rw [e]
  · exact h.imp_right fun hset => ⟨hidle, hset⟩
  · exact .inl (hold_cmdErr bytes s)

theorem malformed_cmdErr (bytes : List Byte) (s : State) : CmdErrKeptOrSet s (malformed bytes s) :=
  atPort_cmdErr (.inr (refuse_cmdErr s)) bytes

theorem exec_cmdErr {i : Instr} {s t : State} (h : exec i s = .next t) : CmdErrKeptOrSet s t := by
  cases i with
  | dataSend | ack | nack | err => cases h; exact .inl (receive_cmdErr _ s)
  | rdreg | txfRd | rxbRd => cases h; exact atPort_cmdErr (answerOperand_cmdErr _ s) _
  | decode => cases h; exact atPort_cmdErr (.inl (storeDecoded_cmdErr _ s)) _
  | txpPush b => cases h; exact atPort_cmdErr (.inl (pushByte_cmdErr b s)) _
  | crcClr | crcUpd | txpClr | encData | encAck | encNack | encErr | readFrame =>
    cases h; exact atPort_cmdErr (.inl rfl) _

theorem step_cmdErr {s t : State} (h : step s = .next t) (hr : ∀ rest, s.inputs ≠ .reset :: rest) : CmdErrKeptOrSet s t := by
  rcases step_cases h with rfl | ⟨rest, hi, _⟩ | ⟨rest, _, rfl⟩ | ⟨_, _, u, hu, _, he⟩ | ⟨bytes, u, hu, rfl⟩ |
    ⟨_, _, u, hu, _, he⟩ | ⟨bytes, u, hu, rfl⟩
  · exact .inl rfl
  · exact absurd hi (hr rest)
  · exact .inl (rxTimeout_cmdErr _)
  · exact hu.cmdErrKeptOrSet (exec_cmdErr he)
  · exact hu.cmdErrKeptOrSet (malformed_cmdErr bytes u)
  · exact hu.cmdErrKeptOrSet (exec_cmdErr he)
  · exact hu.cmdErrKeptOrSet (.inl (receive_cmdErr bytes u))

/-- Settles O5: the first clause is the refusal at the ready port, the other two are `step_cmdErr`. -/
theorem refusedCommandsOnlySetCmdErr : Obligations.RefusedCommandsOnlySetCmdErr :=
  ⟨fun _ _ _ hidle hheld hin href => href.step_eq hidle hheld hin,
    fun _ _ h hr => (step_cmdErr h hr).sticky,
    fun _ _ _ _ hbusy _ hin h => (step_cmdErr h fun _ hreset => by simp [hin] at hreset).busy hbusy⟩

end Sys2Proof.Machine
end

section
/-! The host agent's sender (`45_host_transfer_engine.md` R173 to R178): where one reply takes it while it awaits one. -/
namespace Sys2Proof.Machine

theorem senderReply_invalid {x : Sender} (h : x.phase = .await) : senderReply none x = { x with phase := .write } := by
  simp [senderReply, h]

theorem senderReply_ack {x : Sender} {f : Frame} (h : x.phase = .await) (hk : f.kind = Config.kAck) :
    senderReply (some f) x = senderAdvance x := by
  simp [senderReply, h, hk]

theorem senderReply_nack {x : Sender} {f : Frame} (h : x.phase = .await) (hk : f.kind = Config.kNack) :
    senderReply (some f) x = { x with phase := .write } := by
  have hne : Config.kNack ≠ Config.kAck := by decide
  simp [senderReply, h, hk, hne]

theorem senderReply_other {x : Sender} {f : Frame} (h : x.phase = .await) (hack : f.kind ≠ Config.kAck)
    (hnack : f.kind ≠ Config.kNack) : senderReply (some f) x = { x with phase := .failure } := by
  simp [senderReply, h, hack, hnack]

/-- Settles O54: one lemma per kind of reply; an Ack's two outcomes are those of `senderAdvance`. -/
theorem senderDecidesOnKindAlone : Obligations.SenderDecidesOnKindAlone := fun _ _ h =>
  ⟨senderReply_invalid h, senderReply_ack h, senderReply_nack h, senderReply_other h⟩

end Sys2Proof.Machine
end

section
/-! RESET (`70_reset_and_hazards.md` R220, R221): what the block is after it, and that no buffer byte is readable then. -/
namespace Sys2Proof.Machine

/-- With no frame stored every indexed read of `txf` is refused (R107, R161). -/
theorem exec_txfRd_empty (i : Word) {s : State} (hidle : s.rdPhase = .idle) (hempty : s.txFlen.val = 0) :
    exec (.txfRd i) s = .next { s with cmdErr := true, resp := some 0 } := by
  rw [exec_txfRd_idle i hidle, answerOperand_bufferByte, hempty, if_neg (Nat.not_lt_zero _)]

/-- Settles O12: the step is `resetBlock`, whose fields are R26's values; that block is idle and both counts are 0, so every
indexed read is refused. -/
theorem resetRestoresTheBlock : Obligations.ResetRestoresTheBlock := by
  intro s rest hin
  exact ⟨resetBlock { s with inputs := rest }, step_reset hin,
    rfl, rfl, rfl, rfl, rfl, rfl, rfl, rfl, rfl, rfl, rfl, rfl, rfl, rfl, rfl, rfl, rfl,
    fun i => ⟨exec_txfRd_empty i rfl rfl, exec_rxbRd_empty i rfl rfl⟩⟩

end Sys2Proof.Machine
end

section
/-! The two encodings are inverse to each other (`30_encoding.md` sections 1 and 3): the operand forms, the command table, and the
table of kinds. -/
namespace Sys2Proof.Machine

/-! The operand forms: the operand bytes that are accepted, and what they give. -/

theorem operandNone_ok_iff {code : Byte} {ops : List Byte} {i j : Instr} :
    operandNone code ops i = .ok j ↔ ops = [] ∧ i = j := by
  unfold operandNone
  split <;> simp_all

theorem operandU8_ok_iff {code : Byte} {ops : List Byte} {f : Byte → Instr} {j : Instr} :
    operandU8 code ops f = .ok j ↔ ∃ b, ops = [b] ∧ f b = j := by
  unfold operandU8
  split <;> simp_all

/-- Two bytes are the split of a 16-bit value: that of their join (R9). -/
theorem wireSplit_wireJoin (h l : Byte) : wireSplit (wireJoin h l) = [h, l] := be16_join h l

theorem operandU16_wireSplit (code : Byte) (v : Word) (f : Word → Instr) : operandU16 code (wireSplit v) f = .ok (f v) :=
  congrArg (fun v => Except.ok (f v)) (be16Join_halves v)

theorem operandU16_ok_iff {code : Byte} {ops : List Byte} {f : Word → Instr} {j : Instr} :
    operandU16 code ops f = .ok j ↔ ∃ v, ops = wireSplit v ∧ f v = j := by
  refine ⟨fun h => ?_, fun ⟨v, hops, hj⟩ => by rw [hops, operandU16_wireSplit, hj]⟩
  unfold operandU16 at h
  split at h
  · exact ⟨_, (wireSplit_wireJoin _ _).symm, Except.ok.inj h⟩
  · cases h

theorem operandU16U16_wireSplit (code : Byte) (v w : Word) (f : Word → Word → Instr) :
    operandU16U16 code (wireSplit v ++ wireSplit w) f = .ok (f v w) :=
  congrArg₂ (fun v w => Except.ok (f v w)) (be16Join_halves v) (be16Join_halves w)

theorem operandU16U16_ok_iff {code : Byte} {ops : List Byte} {f : Word → Word → Instr} {j : Instr} :
    operandU16U16 code ops f = .ok j ↔ ∃ v w, ops = wireSplit v ++ wireSplit w ∧ f v w = j := by
  refine ⟨fun h => ?_, fun ⟨v, w, hops, hj⟩ => by rw [hops, operandU16U16_wireSplit, hj]⟩
  unfold operandU16U16 at h
  split at h
  · exact ⟨_, _, by rw [wireSplit_wireJoin, wireSplit_wireJoin]; rfl, Except.ok.inj h⟩
  · cases h

/-! The command table (R73). -/

/-- A command is decoded from its own bytes: the row of its code reads its operands back. -/
theorem decodeCommand_encode {i : Instr} (h : i.space = .command) : decodeCommand (encode i) = .ok i := by
  cases i with
  | crcClr | txpClr | encErr | readFrame | decode | rdreg | crcUpd | txpPush => rfl
  | txfRd v => exact operandU16_wireSplit 0x26 v .txfRd
  | rxbRd v => exact operandU16_wireSplit 0x32 v .rxbRd
  | encData s t => exact operandU16U16_wireSplit 0x22 s t .encData
  | encAck s t => exact operandU16U16_wireSplit 0x23 s t .encAck
  | encNack s t => exact operandU16U16_wireSplit 0x24 s t .encNack
  | dataSend | ack | nack | err => cases h

/-- A transaction that decodes is the encoding of a command. -/
theorem encode_of_decodeCommand {bs : List Byte} {i : Instr} (h : decodeCommand bs = .ok i) :
    i.space = .command ∧ encode i = bs ∧ wellFormed i = true := by
  cases bs with
  | nil => cases h
  | cons code ops =>
    have hcode : code = BitVec.ofNat 8 code.toNat := by rw [BitVec.ofNat_toNat, BitVec.setWidth_eq]
    simp only [decodeCommand, decodeCoded] at h
    split at h
    case h_14 => cases h
    -- One case per row of the table: its operand form says which operand bytes it accepts.
    all_goals
      rename_i hrow
      rw [hrow] at hcode
      simp only [operandNone_ok_iff, operandU8_ok_iff, operandU16_ok_iff, operandU16U16_ok_iff] at h
    case h_1 | h_3 | h_5 => obtain ⟨b, rfl, rfl⟩ := h; exact ⟨rfl, by rw [hcode]; rfl, rfl⟩
    case h_2 | h_4 | h_9 | h_11 | h_12 => obtain ⟨rfl, rfl⟩ := h; exact ⟨rfl, by rw [hcode]; rfl, rfl⟩
    case h_10 | h_13 => obtain ⟨v, rfl, rfl⟩ := h; exact ⟨rfl, by rw [hcode]; rfl, rfl⟩
    case h_6 | h_7 | h_8 => obtain ⟨v, w, rfl, rfl⟩ := h; exact ⟨rfl, by rw [hcode]; rfl, rfl⟩

/-! The table of kinds (R61, R63). -/

/-- A well-formed frame is decoded from its own bytes. -/
theorem decodeFrame_encode {i : Instr} (hspace : i.space = .wireFrame) (hwf : wellFormed i = true) :
    decodeFrame (encode i) = .ok i := by
  cases i with
  | dataSend ck s t p =>
    have hlen : (BitVec.ofNat 16 p.length).toNat = p.length := index_toNat (Nat.lt_succ_of_le (of_decide_eq_true hwf)) le_rfl
    rw [encode, decodeFrame_wireBytes, decodeKind, hlen, if_neg (not_not.mpr rfl), if_pos rfl]
  | ack ck s t | nack ck s t | err ck s t => exact decodeFrame_wireBytes ck _ s t 0 []
  | rdreg | crcClr | crcUpd | txpClr | txpPush | encData | encAck | encNack | encErr | txfRd | readFrame | decode | rxbRd =>
    cases hspace

/-- A frame that decodes has a payload that its 16-bit length field counts (R62). -/
theorem wellFormed_of_decodeFrame {bs : List Byte} {i : Instr} (h : decodeFrame bs = .ok i) : wellFormed i = true := by
  unfold decodeFrame at h
  split at h
  · unfold decodeKind at h
    split_ifs at h with hlen <;> cases h
    · exact decide_eq_true (by rw [not_not.mp hlen]; exact Nat.le_of_lt_succ (BitVec.isLt _))
    all_goals rfl
  · cases h

/-- Settles O1: a command by its row of the table, a frame by its kind. -/
theorem decodeInvertsEncode : Obligations.DecodeInvertsEncode := by
  intro i hwf
  cases hspace : i.space with
  | command => exact decodeCommand_encode hspace
  | wireFrame => exact decodeFrame_encode hspace hwf

/-- Settles O2: the bytes that decode are read off the row, or the kind, that accepts them. -/
theorem encodeInvertsDecode : Obligations.EncodeInvertsDecode := by
  intro sp bs i h
  cases sp with
  | command => exact encode_of_decodeCommand h
  | wireFrame => exact ⟨decodeFrame_space h, encode_of_decodeFrame h, wellFormed_of_decodeFrame h⟩

/-- Settles O3: eight closed instances of the decoder. -/
theorem tabledWordsDecode : Obligations.TabledWordsDecode := by
  unfold Obligations.TabledWordsDecode
  decide

end Sys2Proof.Machine
end

section
/-! The step around an instruction (`20_memory.md` R50, R51): what the next turn takes, from the outside, the held commands or the
channel, and what it does with it. -/
namespace Sys2Proof.Machine

/-! What the next turn takes. -/

/-- But for a RESET or a timeout, an idle block looks at its port and a busy one at the channel. -/
theorem nextTurn_uninterrupted {s : State} (h : Uninterrupted s) :
    nextTurn s = if s.rdPhase = .idle then idleTurn s else busyTurn s := by
  obtain ⟨hreset, htimeout⟩ := h
  unfold nextTurn
  split
  · exact absurd ‹_› (hreset _)
  · exact absurd ‹_› (htimeout _)
  · rfl

theorem nextTurn_held {s : State} {bs : List Byte} {later : List (List Byte)} (hidle : s.rdPhase = .idle)
    (hheld : s.held = bs :: later) (hun : Uninterrupted s) : nextTurn s = .command bs { s with held := later } := by
  rw [nextTurn_uninterrupted hun, if_pos hidle, idleTurn, hheld]

theorem nextTurn_channel {s : State} {bs : List Byte} {later : List (List Byte)} (hbusy : s.rdPhase ≠ .idle)
    (hchan : s.chan = bs :: later) (hun : Uninterrupted s) : nextTurn s = .burst bs { s with chan := later } := by
  rw [nextTurn_uninterrupted hun, if_neg hbusy, busyTurn, hchan]

/-- Nothing waits where the next turn looks: at an idle port, or in the channel of a busy block. -/
def NothingWaits (s : State) : Prop := (s.rdPhase = .idle ∧ s.held = []) ∨ (s.rdPhase ≠ .idle ∧ s.chan = [])

/-- With nothing waiting, the next input is what the turn takes. -/
theorem nextTurn_input {s : State} (h : NothingWaits s) : nextTurn s = nextInput s := by
  have hturn : (if s.rdPhase = .idle then idleTurn s else busyTurn s) = nextInput s := by
    obtain ⟨hidle, hheld⟩ | ⟨hbusy, hchan⟩ := h
    · rw [if_pos hidle, idleTurn, hheld]
    · rw [if_neg hbusy, busyTurn, hchan]
  unfold nextTurn
  split
  · rfl
  · rfl
  · exact hturn

theorem nextTurn_command {s : State} {bs : List Byte} {rest : List Input} (h : NothingWaits s)
    (hin : s.inputs = .command bs :: rest) : nextTurn s = .command bs { s with inputs := rest } := by
  rw [nextTurn_input h, nextInput, hin]

theorem nextTurn_rxBurst {s : State} {bs : List Byte} {rest : List Input} (h : NothingWaits s)
    (hin : s.inputs = .rxBurst bs :: rest) : nextTurn s = .burst bs { s with inputs := rest } := by
  rw [nextTurn_input h, nextInput, hin]

/-! What the step does with it. -/

theorem step_command_ok {s u : State} {bs : List Byte} {i : Instr} (h : nextTurn s = .command bs u)
    (hok : decodeCommand bs = .ok i) : step s = exec i u := by
  simp only [step, h, hok]

theorem step_command_error {s u : State} {bs : List Byte} {e : DecodeError} (h : nextTurn s = .command bs u)
    (hbad : decodeCommand bs = .error e) : step s = .next (malformed bs u) := by
  simp only [step, h, hbad]

theorem step_burst_ok {s u : State} {bs : List Byte} {i : Instr} (h : nextTurn s = .burst bs u)
    (hok : decodeFrame bs = .ok i) : step s = exec i u := by
  simp only [step, h, hok]

/-- With nothing waiting and nothing to come the step changes nothing. -/
theorem step_waits {s : State} (h : NothingWaits s) (hin : s.inputs = []) : step s = .next s := by
  have hturn : nextTurn s = .wait := by rw [nextTurn_input h, nextInput, hin]
  simp only [step, hturn]

/-- Settles O6: in each case the transaction is the next turn's command. -/
theorem stepRunsTheDecodedCommand : Obligations.StepRunsTheDecodedCommand := fun _ _ _ hok =>
  ⟨fun _ hin hwaits => step_command_ok (nextTurn_command hwaits hin) hok,
    fun _ hheld hidle hun => step_command_ok (nextTurn_held hidle hheld hun) hok⟩

/-- Settles O7: in each case the bytes are the next turn's burst. -/
theorem stepRunsTheDecodedFrame : Obligations.StepRunsTheDecodedFrame := fun _ _ _ hok =>
  ⟨fun _ hin hwaits => step_burst_ok (nextTurn_rxBurst hwaits hin) hok,
    fun _ hchan hbusy hun => step_burst_ok (nextTurn_channel hbusy hchan hun) hok⟩

/-- A placed command is the next input of an idle port with nothing held. -/
theorem step_placeCommand {bs : List Byte} {i : Instr} (hok : decodeCommand bs = .ok i) (s : State) :
    step (placeCommand bs s) = exec i { placeCommand bs s with inputs := s.inputs } :=
  step_command_ok (nextTurn_command (.inl ⟨rfl, rfl⟩) rfl) hok

/-- A read is in progress in the state a burst is placed in. -/
theorem placeBurst_busy (bs : List Byte) (s : State) : (placeBurst bs s).rdPhase ≠ .idle := by
  unfold placeBurst
  split
  · simp
  · assumption

/-- Placed bytes are the next input of a busy block with an empty channel. -/
theorem step_placeBurst {bs : List Byte} {i : Instr} (hok : decodeFrame bs = .ok i) (s : State) :
    step (placeBurst bs s) = exec i { placeBurst bs s with inputs := s.inputs } :=
  step_burst_ok (nextTurn_rxBurst (.inr ⟨placeBurst_busy bs s, rfl⟩) rfl) hok

/-- Settles O8: a command word by `step_placeCommand`, a frame word by `step_placeBurst`. -/
theorem placedWordRunsNext : Obligations.PlacedWordRunsNext := by
  intro s nbits w i h
  have hok : decode (tableSpace nbits) (tableWordBytes nbits w) = .ok i := by
    unfold decodeTableWord at h
    cases hd : decode (tableSpace nbits) (tableWordBytes nbits w) with
    | ok j => rw [hd] at h; exact congrArg Except.ok (Option.some.inj h)
    | error e => rw [hd] at h; cases h
  unfold State.withFetchWord placeTableWord
  cases hspace : tableSpace nbits with
  | command => rw [hspace] at hok; exact step_placeCommand hok s
  | wireFrame => rw [hspace] at hok; exact step_placeBurst hok s

/-- Settles O9: each turn answers a next state, an instruction's by `exec_isNext`. -/
theorem noStepStops : Obligations.NoStepStops := by
  intro s
  cases hturn : nextTurn s with
  | wait => exact ⟨s, by simp only [step, hturn]⟩
  | event t => exact ⟨t, by simp only [step, hturn]⟩
  | command bs u =>
    cases hd : decodeCommand bs with
    | ok i => rw [step_command_ok hturn hd]; exact exec_isNext i u
    | error e => exact ⟨_, step_command_error hturn hd⟩
  | burst bs u => exact ⟨_, step_burst hturn⟩

/-! Transactions at a busy port (R143). -/

/-- Every command is held while a read is in progress. -/
theorem exec_command_busy {i : Instr} (hspace : i.space = .command) {s : State} (hbusy : s.rdPhase ≠ .idle) :
    exec i s = .next (hold (encode i) s) := by
  cases i with
  | dataSend | ack | nack | err => cases hspace
  | rdreg | crcClr | crcUpd | txpClr | txpPush | encData | encAck | encNack | encErr | txfRd | readFrame | decode | rxbRd =>
    exact congrArg Host.Outcome.next (atPort_busy hbusy _ _)

/-- Every transaction is held while a read is in progress, a command or not. -/
theorem step_command_busy {s u : State} {bs : List Byte} (hturn : nextTurn s = .command bs u) (hbusy : u.rdPhase ≠ .idle) :
    step s = .next (hold bs u) := by
  cases hd : decodeCommand bs with
  | ok i =>
    obtain ⟨hspace, hbytes, _⟩ := encode_of_decodeCommand hd
    rw [step_command_ok hturn hd, exec_command_busy hspace hbusy, hbytes]
  | error e => rw [step_command_error hturn hd, malformed, atPort_busy hbusy]

/-- Settles O10: the port holds while busy; the oldest held transaction is what an idle, uninterrupted block takes. -/
theorem busyBlockHoldsCommands : Obligations.BusyBlockHoldsCommands := by
  refine ⟨fun i s hspace hbusy => exec_command_busy hspace hbusy,
    fun bs s rest hbusy hchan hin => step_command_busy (nextTurn_command (.inr ⟨hbusy, hchan⟩) hin) hbusy,
    fun bs s later hidle hheld hun => ?_⟩
  have hturn := nextTurn_held hidle hheld hun
  refine ⟨fun i hok => step_command_ok hturn hok, fun ⟨e, hbad⟩ => ?_⟩
  rw [step_command_error hturn hbad, malformed_idle (s := { s with held := later }) hidle bs]
  rfl

/-! A run that has ended (R236). -/

/-- Bytes that arrive while the block is idle change the channel only (R203). -/
theorem stayInChannel_only (bs : List Byte) (s : State) : ∃ c, stayInChannel bs s = { s with chan := c } := by
  unfold stayInChannel
  split
  · exact ⟨s.chan, rfl⟩
  · exact ⟨_, rfl⟩

theorem receive_idle {s : State} (h : s.rdPhase = .idle) (bs : List Byte) : receive bs s = stayInChannel bs s := if_pos h

theorem rxTimeout_idle {s : State} (h : s.rdPhase = .idle) : rxTimeout s = s := if_pos h

/-- What is left of the inputs holds no command of the host either. -/
theorem RunEnded.tail {s : State} (h : RunEnded s) {i : Input} {rest : List Input} (hin : s.inputs = i :: rest)
    (bs : List Byte) : .command bs ∉ rest := by
  obtain ⟨_, _, hnone⟩ := h
  intro hmem
  apply hnone bs
  rw [hin]
  exact List.mem_cons_of_mem _ hmem

/-- A step of a run that has ended waits, takes a RESET, or takes an input that reaches no further than the channel. -/
theorem RunEnded.step_outcome {s t : State} (h : RunEnded s) (hstep : step s = .next t) :
    t = s ∨ (∃ rest, s.inputs = .reset :: rest ∧ t = resetBlock { s with inputs := rest }) ∨
      ∃ i rest c, s.inputs = i :: rest ∧ t = { s with chan := c, inputs := rest } := by
  obtain ⟨hidle, hheld, hnone⟩ := h
  have hwaits : NothingWaits s := .inl ⟨hidle, hheld⟩
  cases hin : s.inputs with
  | nil =>
    rw [step_waits hwaits hin] at hstep
    cases hstep
    exact .inl rfl
  | cons i rest =>
    cases i with
    | command bs => exact absurd (hin ▸ List.mem_cons_self) (hnone bs)
    | rxBurst bs =>
      obtain ⟨c, hc⟩ := stayInChannel_only bs { s with inputs := rest }
      rw [step_burst (nextTurn_rxBurst hwaits hin), receive_idle (s := { s with inputs := rest }) hidle, hc] at hstep
      cases hstep
      exact .inr (.inr ⟨_, rest, c, rfl, rfl⟩)
    | rxTimeout =>
      rw [step_rxTimeout hin, rxTimeout_idle (s := { s with inputs := rest }) hidle] at hstep
      cases hstep
      exact .inr (.inr ⟨_, rest, s.chan, rfl, rfl⟩)
    | reset =>
      rw [step_reset hin] at hstep
      cases hstep
      exact .inr (.inl ⟨rest, rfl, rfl⟩)

/-- Settles O11: the cases of a step of an ended run; a busy block that waits has nothing waiting either. -/
theorem nothingToDoChangesNothing : Obligations.NothingToDoChangesNothing := by
  refine ⟨fun s ⟨hidle, hheld, _⟩ hin => step_waits (.inl ⟨hidle, hheld⟩) hin, fun s t hended hstep => ?_,
    fun s hbusy hchan hin => step_waits (.inr ⟨hbusy, hchan⟩) hin⟩
  obtain rfl | ⟨rest, hin, rfl⟩ | ⟨i, rest, c, hin, rfl⟩ := hended.step_outcome hstep
  · exact ⟨hended, fun _ => rfl⟩
  · exact ⟨⟨rfl, rfl, hended.tail hin⟩, fun hr => absurd hin (hr rest)⟩
  · have htail := hended.tail hin
    obtain ⟨hidle, hheld, _⟩ := hended
    exact ⟨⟨hidle, hheld, htail⟩, fun _ => rfl⟩

end Sys2Proof.Machine
end

section
/-! The laws of the checksum (`40_checksum.md` R95): the byte step is linear and injective over GF(2), and a sum is the remainder of a
polynomial division (R90). -/
namespace Sys2Proof.Machine

/-! The shift, bit by bit. -/

/-- The shift adds the polynomial where the top bit is set (R90). -/
theorem crcShift_eq_xor (c : Word) : crcShift c = (c <<< 1) ^^^ (if c.getLsbD 15 then Config.poly else 0) := by
  unfold crcShift
  split
  · rfl
  · exact BitVec.xor_zero.symm

theorem crcShift_getLsbD {c : Word} {i : Nat} (hi : i < 16) : (crcShift c).getLsbD i =
    ((decide (0 < i) && c.getLsbD (i - 1)) ^^ (c.getLsbD 15 && Config.poly.getLsbD i)) := by
  have hpoly : (if c.getLsbD 15 then Config.poly else 0).getLsbD i = (c.getLsbD 15 && Config.poly.getLsbD i) := by
    split <;> simp_all
  rw [crcShift_eq_xor, BitVec.getLsbD_xor, hpoly, BitVec.getLsbD_shiftLeft]
  cases i <;> simp_all

/-! Linearity (R95 (c)). -/

theorem crcShift_xor (a b : Word) : crcShift (a ^^^ b) = crcShift a ^^^ crcShift b := by
  apply BitVec.eq_of_getLsbD_eq
  intro i hi
  simp only [BitVec.getLsbD_xor, crcShift_getLsbD hi]
  cases decide (0 < i) <;> cases Config.poly.getLsbD i <;> simp [Bool.xor_left_comm]

theorem crcShifts_xor (n : Nat) (a b : Word) : crcShifts n (a ^^^ b) = crcShifts n a ^^^ crcShifts n b := by
  induction n generalizing a b with
  | zero => rfl
  | succ n ih => rw [crcShifts, crcShift_xor, ih]; rfl

theorem crcShifts_zero (n : Nat) : crcShifts n 0 = 0 := by
  induction n with
  | zero => rfl
  | succ n ih => exact ih

theorem crcUpdate_eq (c : Word) (b : Byte) : crcUpdate c b = crcShifts 8 (c ^^^ (b.setWidth 16 <<< 8)) := rfl

theorem crcUpdate_xor (c d : Word) (a b : Byte) : crcUpdate (c ^^^ d) (a ^^^ b) = crcUpdate c a ^^^ crcUpdate d b := by
  simp only [crcUpdate_eq, ← crcShifts_xor, BitVec.setWidth_xor, BitVec.shiftLeft_xor_distrib]
  congr 1
  ac_rfl

theorem foldl_crcUpdate_xor {a b : List Byte} (h : a.length = b.length) (c d : Word) :
    (List.zipWith (· ^^^ ·) a b).foldl crcUpdate (c ^^^ d) = a.foldl crcUpdate c ^^^ b.foldl crcUpdate d := by
  induction a generalizing b c d with
  | nil => rw [List.eq_nil_of_length_eq_zero h.symm]; rfl
  | cons x a ih =>
    obtain _ | ⟨y, b⟩ := b
    · cases h
    · rw [List.zipWith_cons_cons, List.foldl_cons, crcUpdate_xor]
      exact ih (Nat.succ.inj h) _ _

/-- Settles O19: the fold is linear in its start and its bytes, and the start is 0. -/
theorem checksumIsLinear : Obligations.ChecksumIsLinear := by
  intro a b h
  simp only [crc16_eq]
  exact foldl_crcUpdate_xor h Config.crcInit Config.crcInit

/-! Injectivity (R95 (b)). -/

/-- The bit shifted out is the bottom bit of the result, and the others stand one place up. -/
theorem crcShift_injective : Function.Injective crcShift := by
  intro a b h
  have hbit (i : Nat) : (crcShift a).getLsbD i = (crcShift b).getLsbD i := by rw [h]
  have htop : a.getLsbD 15 = b.getLsbD 15 := by
    have hlow := hbit 0
    rw [crcShift_getLsbD (by decide), crcShift_getLsbD (by decide)] at hlow
    simpa [Config.poly] using hlow
  apply BitVec.eq_of_getLsbD_eq
  intro i hi
  by_cases h15 : i = 15
  · rw [h15, htop]
  · have hup := hbit (i + 1)
    rw [crcShift_getLsbD (by omega), crcShift_getLsbD (by omega), htop] at hup
    simpa using hup

theorem crcShifts_injective (n : Nat) : Function.Injective (crcShifts n) := by
  rw [show crcShifts n = crcShift^[n] from funext (crcShifts_eq_iterate n)]
  exact crcShift_injective.iterate n

theorem crcUpdate_left_injective (b : Byte) : Function.Injective (crcUpdate · b) := fun _ _ h =>
  BitVec.xor_left_inj _ |>.mp (crcShifts_injective 8 h)

/-- Whatever follows, two sums that differ stay different. -/
theorem foldl_crcUpdate_injective (bs : List Byte) : Function.Injective (bs.foldl crcUpdate) := by
  induction bs with
  | nil => exact fun _ _ h => h
  | cons b bs ih => exact fun _ _ h => crcUpdate_left_injective b (ih h)

theorem crcShifts_add (m n : Nat) (c : Word) : crcShifts (m + n) c = crcShifts m (crcShifts n c) := by
  simp only [crcShifts_eq_iterate, Function.iterate_add_apply]

/-- A byte in the low half reaches the high half before any bit of it is shifted out. -/
theorem crcShifts_low_byte : ∀ b : Byte, crcShifts 8 (b.setWidth 16) = b.setWidth 16 <<< 8 := by decide

theorem be16Join_eq_xor (h l : Byte) : be16Join h l = (h.setWidth 16 <<< 8) ^^^ l.setWidth 16 := by
  apply BitVec.eq_of_getLsbD_eq
  intro i hi
  by_cases h8 : i < 8
  · simp [be16Join, h8]
  · simp [be16Join, h8, BitVec.getLsbD_of_ge l i (by omega)]

/-- Two bytes are one 16-bit value that enters the register at once. -/
theorem crcUpdate_crcUpdate (c : Word) (h l : Byte) : crcUpdate (crcUpdate c h) l = crcShifts 16 (c ^^^ be16Join h l) := by
  rw [crcUpdate_eq, crcUpdate_eq, ← crcShifts_low_byte l, ← crcShifts_xor, be16Join_eq_xor, ← BitVec.xor_assoc]
  exact (crcShifts_add 8 8 _).symm

theorem crcUpdate_crcUpdate_inj {c : Word} {x x' y y' : Byte}
    (h : crcUpdate (crcUpdate c x) x' = crcUpdate (crcUpdate c y) y') : x = y ∧ x' = y' := by
  rw [crcUpdate_crcUpdate, crcUpdate_crcUpdate] at h
  exact be16Join_inj ((BitVec.xor_right_inj c).mp (crcShifts_injective 16 h))

theorem crcUpdate_right_injective (c : Word) : Function.Injective (crcUpdate c) := fun _ _ h =>
  (crcUpdate_crcUpdate_inj (x' := 0) (y' := 0) (congrArg (crcUpdate · 0) h)).1

/-- A change of one byte changes the sum. -/
theorem crc16_change_byte (before after : List Byte) {x y : Byte} (h : x ≠ y) :
    crc16 (before ++ x :: after) ≠ crc16 (before ++ y :: after) := by
  rw [crc16_append, crc16_append]
  exact fun hsum => h (crcUpdate_right_injective _ (foldl_crcUpdate_injective after hsum))

/-- Settles O20: the sum before the change is the same, two bytes enter as one 16-bit value, and what follows keeps the
difference. -/
theorem checksumSeesEveryShortChange : Obligations.ChecksumSeesEveryShortChange := by
  refine ⟨fun before after x y => crc16_change_byte before after, fun before after x x' y y' hne => ?_⟩
  simp only [crc16_append, List.foldl_cons]
  intro hsum
  obtain ⟨rfl, rfl⟩ := crcUpdate_crcUpdate_inj (foldl_crcUpdate_injective after hsum)
  exact hne rfl

/-- Settles O21: a zero byte leaves the register at 0, and the register's own value added to it leaves 0. -/
theorem checksumLeadingZerosAndResidue : Obligations.ChecksumLeadingZerosAndResidue := by
  refine ⟨fun bs => ?_, fun bs => ?_⟩
  · rw [crc16_eq, crc16_eq, List.foldl_cons, show crcUpdate Config.crcInit 0x00 = Config.crcInit from crcShifts_zero 8]
  · rw [crc16_append]
    show crcUpdate (crcUpdate _ _) _ = _
    rw [crcUpdate_crcUpdate, be16Join_halves, BitVec.xor_self]
    exact crcShifts_zero 16

/-! The polynomial reading (R90). -/

section Polynomial
open Polynomial

/-- The polynomial over GF(2) whose coefficients are the bits. -/
noncomputable def bitPoly {w : Nat} (v : BitVec w) : (ZMod 2)[X] := ∑ k ∈ Finset.range w, if v.getLsbD k then X ^ k else 0

/-- R90's generator. -/
noncomputable def crcGenerator : (ZMod 2)[X] := X ^ 16 + X ^ 12 + X ^ 5 + 1

theorem bitPoly_xor {w : Nat} (a b : BitVec w) : bitPoly (a ^^^ b) = bitPoly a + bitPoly b := by
  simp only [bitPoly, ← Finset.sum_add_distrib, BitVec.getLsbD_xor]
  refine Finset.sum_congr rfl fun k _ => ?_
  cases a.getLsbD k <;> cases b.getLsbD k <;> simp [CharTwo.add_self_eq_zero]

/-- A byte in the high half stands for its polynomial times x^8. -/
theorem bitPoly_high_byte (b : Byte) : bitPoly ((b.setWidth 16 <<< 8 : Word)) = X ^ 8 * bitPoly b := by
  have hlow : ∀ k ∈ Finset.range 8,
      (if (b.setWidth 16 <<< 8 : Word).getLsbD k then X ^ k else 0 : (ZMod 2)[X]) = 0 := by
    intro k hk
    simp [Finset.mem_range.mp hk]
  rw [bitPoly, Finset.sum_range_add _ 8 8, Finset.sum_eq_zero hlow, zero_add, bitPoly, Finset.mul_sum]
  refine Finset.sum_congr rfl fun k hk => ?_
  have hk : k < 8 := Finset.mem_range.mp hk
  have h16 : 8 + k < 16 := by omega
  simp [h16, pow_add]

theorem bitPoly_poly : bitPoly Config.poly = X ^ 12 + X ^ 5 + 1 := by
  simp [bitPoly, Finset.sum_range_succ, Config.poly]
  ring

/-- A shift to the left multiplies by x, and drops x^16 where the top bit is set. -/
theorem bitPoly_shiftLeft (c : Word) : X * bitPoly c = bitPoly (c <<< 1) + if c.getLsbD 15 then X ^ 16 else 0 := by
  have hlow : ∑ k ∈ Finset.range 15, X * (if c.getLsbD k then X ^ k else 0 : (ZMod 2)[X]) = bitPoly (c <<< 1) := by
    rw [bitPoly, Finset.sum_range_succ' _ 15]
    simp only [BitVec.getLsbD_shiftLeft, Nat.lt_one_iff, decide_true, Bool.not_true, Bool.and_false, Bool.false_and]
    rw [if_neg Bool.false_ne_true, add_zero]
    refine Finset.sum_congr rfl fun k hk => ?_
    have hk : k + 1 < 16 := Nat.succ_lt_succ (Finset.mem_range.mp hk)
    simp [hk, pow_succ']
  rw [← hlow, bitPoly, Finset.sum_range_succ _ 15, mul_add, Finset.mul_sum, mul_ite, mul_zero, ← pow_succ']

/-- The value of a word's polynomial modulo the generator. -/
noncomputable def residue {w : Nat} (v : BitVec w) : AdjoinRoot crcGenerator := AdjoinRoot.mk crcGenerator (bitPoly v)

theorem residue_xor {w : Nat} (a b : BitVec w) : residue (a ^^^ b) = residue a + residue b := by
  rw [residue, bitPoly_xor, map_add]
  rfl

theorem residue_add_self {w : Nat} (v : BitVec w) : residue v + residue v = 0 := by
  rw [← residue_xor, BitVec.xor_self]
  simp [residue, bitPoly]

/-- One shift multiplies by x modulo the generator: what it drops and what it adds sum to the generator. -/
theorem residue_crcShift (c : Word) : residue (crcShift c) = AdjoinRoot.root crcGenerator * residue c := by
  have hsum : X * bitPoly c = bitPoly (crcShift c) + if c.getLsbD 15 then crcGenerator else 0 := by
    rw [crcShift_eq_xor, bitPoly_xor, bitPoly_shiftLeft]
    split
    · rw [bitPoly_poly, crcGenerator]
      linear_combination -CharTwo.add_self_eq_zero (X ^ 12 + X ^ 5 + 1 : (ZMod 2)[X])
    · simp [bitPoly]
  rw [residue, residue, ← AdjoinRoot.mk_X, ← map_mul, hsum, map_add]
  split <;> simp

theorem residue_crcShifts (n : Nat) (c : Word) :
    residue (crcShifts n c) = AdjoinRoot.root crcGenerator ^ n * residue c := by
  induction n generalizing c with
  | zero => rw [pow_zero, one_mul]; rfl
  | succ n ih => rw [crcShifts, ih, residue_crcShift, ← mul_assoc, ← pow_succ]

theorem residue_crcUpdate (c : Word) (b : Byte) : residue (crcUpdate c b) =
    AdjoinRoot.root crcGenerator ^ 8 * (residue c + AdjoinRoot.root crcGenerator ^ 8 * residue b) := by
  have hhigh : residue (b.setWidth 16 <<< 8 : Word) = AdjoinRoot.root crcGenerator ^ 8 * residue b := by
    rw [residue, bitPoly_high_byte, map_mul, map_pow, AdjoinRoot.mk_X]
    rfl
  rw [crcUpdate_eq, residue_crcShifts, residue_xor, hhigh]

/-- The polynomial of a message followed by one more byte. -/
noncomputable def messageStep (m : (ZMod 2)[X]) (b : Byte) : (ZMod 2)[X] := m * X ^ 8 + bitPoly b

/-- The register is the message times x^16, modulo the generator, after every byte. -/
theorem residue_foldl_crcUpdate (bs : List Byte) {c : Word} {m : (ZMod 2)[X]}
    (h : residue c = AdjoinRoot.mk crcGenerator (m * X ^ 16)) :
    residue (bs.foldl crcUpdate c) = AdjoinRoot.mk crcGenerator (bs.foldl messageStep m * X ^ 16) := by
  induction bs generalizing c m with
  | nil => exact h
  | cons b bs ih =>
    refine ih ?_
    rw [residue_crcUpdate, h, messageStep]
    simp only [residue, map_mul, map_add, map_pow, AdjoinRoot.mk_X]
    ring

/-- Settles O16: the message times x^16 and the sum have the same remainder, and over GF(2) a value added to itself is 0. -/
theorem checksumIsPolynomialRemainder : Obligations.ChecksumIsPolynomialRemainder := by
  intro bs
  show crcGenerator ∣ bs.foldl messageStep 0 * X ^ 16 + bitPoly (crc16 bs)
  have hstart : residue Config.crcInit = AdjoinRoot.mk crcGenerator (0 * X ^ 16) := by simp [residue, bitPoly, Config.crcInit]
  rw [← AdjoinRoot.mk_eq_zero, map_add, ← residue_foldl_crcUpdate bs hstart, ← crc16_eq]
  exact residue_add_self (crc16 bs)

end Polynomial

end Sys2Proof.Machine
end

section
/-! Who writes the checksum accumulator (`10_state.md` R11): what each operation, each instruction and each step does to it. -/
namespace Sys2Proof.Machine

@[simp] theorem receive_crc (bs : List Byte) (s : State) : (receive bs s).crc = s.crc := by
  obtain ⟨_, _, _, _, _, _, e⟩ := receive_only bs s
  rw [e]

@[simp] theorem rxTimeout_crc (s : State) : (rxTimeout s).crc = s.crc := by
  unfold rxTimeout
  split <;> simp

@[simp] theorem answerOperand_crc (v : Option Word) (s : State) : (answerOperand v s).crc = s.crc := by
  cases v <;> rfl

@[simp] theorem storeDecoded_crc (r : Option Frame) (s : State) : (storeDecoded r s).crc = s.crc := by
  cases r <;> rfl

@[simp] theorem pushByte_crc (b : Byte) (s : State) : (pushByte b s).crc = s.crc := by
  rcases pushByte_cases b s with ⟨_, e⟩ | ⟨_, e⟩ <;> simp [e]

/-- A command whose run leaves the accumulator leaves it at the port too (R143). -/
theorem atPort_crc {run : State → State} {s : State} (h : (run s).crc = s.crc) (bytes : List Byte) :
    (atPort bytes run s).crc = s.crc := by
  rcases atPort_cases bytes run s with ⟨_, e⟩ | ⟨_, e⟩
  · rw [e, h]
  · rw [e, hold_crc]

@[simp] theorem malformed_crc (bytes : List Byte) (s : State) : (malformed bytes s).crc = s.crc :=
  atPort_crc (refuse_crc s) bytes

/-- An instruction keeps the accumulator, or it is CRC_CLR or CRC_UPD (R11). -/
theorem exec_crc {i : Instr} {s t : State} (h : exec i s = .next t) :
    t.crc = s.crc ∨ i = .crcClr ∨ ∃ b, i = .crcUpd b := by
  cases i with
  | crcClr => exact .inr (.inl rfl)
  | crcUpd b => exact .inr (.inr ⟨b, rfl⟩)
  | dataSend | ack | nack | err => cases h; exact .inl (receive_crc _ s)
  | rdreg | txfRd | rxbRd => cases h; exact .inl (atPort_crc (answerOperand_crc _ s) _)
  | decode => cases h; exact .inl (atPort_crc (storeDecoded_crc _ s) _)
  | txpPush b => cases h; exact .inl (atPort_crc (pushByte_crc b s) _)
  | txpClr | encData | encAck | encNack | encErr | readFrame => cases h; exact .inl (atPort_crc rfl _)

theorem SameBlock.crc {s u : State} (h : SameBlock s u) : u.crc = s.crc := by rw [h]

/-- A step keeps the accumulator, takes a RESET, or runs CRC_CLR or CRC_UPD (R11). -/
theorem step_crc {s t : State} (h : step s = .next t) :
    t.crc = s.crc ∨ (∃ rest, s.inputs = .reset :: rest) ∨
      ∃ bs i u, nextTurn s = .command bs u ∧ decodeCommand bs = .ok i ∧ (i = .crcClr ∨ ∃ b, i = .crcUpd b) := by
  rcases nextTurn_cases s with e | ⟨rest, hin, _⟩ | ⟨rest, _, e⟩ | ⟨bs, u, hu, e⟩ | ⟨bs, u, hu, e⟩
  · simp only [step, e] at h
    cases h
    exact .inl rfl
  · exact .inr (.inl ⟨rest, hin⟩)
  · simp only [step, e] at h
    cases h
    exact .inl (rxTimeout_crc _)
  · cases hd : decodeCommand bs with
    | ok i =>
      simp only [step, e, hd] at h
      exact (exec_crc h).imp hu.crc.symm.substr fun hi => .inr ⟨bs, i, u, e, hd, hi⟩
    | error =>
      simp only [step, e, hd] at h
      cases h
      exact .inl ((malformed_crc bs u).trans hu.crc)
  · rw [step_burst e] at h
    cases h
    exact .inl ((receive_crc bs u).trans hu.crc)

/-- Settles O23: `exec_crc` for the instructions, `step_crc` for the steps. -/
theorem onlyChecksumCommandsWriteCrc : Obligations.OnlyChecksumCommandsWriteCrc :=
  ⟨fun _ _ _ h hclr hupd => (exec_crc h).resolve_right fun hi => hi.elim hclr fun ⟨b, hb⟩ => hupd b hb,
    fun _ _ h hne => (step_crc h).resolve_left hne⟩

end Sys2Proof.Machine
end

section
/-! The frame codec's laws: encoding is injective (`41_frame_encoder.md` R108), and only an encoding with its own byte count decodes
(`42_frame_decoder.md` R120, R127, R128). -/
namespace Sys2Proof.Machine

/-- Settles O30: every part of the tuple is read back from its place in the frame. -/
theorem encodingIsInjective : Obligations.EncodingIsInjective := by
  intro k k' q q' w w' p p' h
  refine ⟨?_, ?_, ?_, ?_⟩
  · rw [← frameBytes_kind k q w p, h, frameBytes_kind]
  · rw [← frameBytes_sequence k q w p, h, frameBytes_sequence]
  · rw [← frameBytes_total k q w p, h, frameBytes_total]
  · rw [← frameBytes_drop_header k q w p, h, frameBytes_drop_header]

/-! The test of the first `n` bytes of a range. -/

theorem getD_take {bs : List Byte} {n i : Nat} (h : i < n) : (bs.take n).getD i 0 = bs.getD i 0 := by
  rw [List.getD_eq_getElem?_getD, List.getElem?_take_of_lt h, List.getD_eq_getElem?_getD]

theorem field16_take {bs : List Byte} {n i : Nat} (h : i + 1 < n) : field16 (bs.take n) i = field16 bs i := by
  rw [field16, getD_take (by omega), getD_take h, field16]

/-- Decoding looks at no byte beyond the count (R120). -/
theorem decodeAndVerify_take (bs : List Byte) (n : Nat) : decodeAndVerify (bs.take n) n = decodeAndVerify bs n := by
  by_cases h : n < 9
  · rw [decodeAndVerify_short _ h, decodeAndVerify_short _ h]
  · have hfield (i : Nat) (hi : i + 1 < 9) : field16 (bs.take n) i = field16 bs i := field16_take (by omega)
    simp only [decodeAndVerify, List.take_take, min_self, getD_take (show 2 < n by omega), hfield 0 (by decide),
      hfield 3 (by decide), hfield 5 (by decide), hfield 7 (by decide)]

/-- Settles O32: within the range the first `n` bytes are a range of their own, tested whole. -/
theorem validMeansExactlyEncoded : Obligations.ValidMeansExactlyEncoded := by
  intro bs n f hn
  have hlen : (bs.take n).length = n := List.length_take_of_le hn
  have h := decodeAndVerify_length_iff (bs := bs.take n) (f := f)
  rwa [hlen, decodeAndVerify_take] at h

/-! What is rejected. -/

/-- A count other than the one the length field announces is Invalid (R120). -/
theorem decodeAndVerify_wrong_count {bs : List Byte} {n : Nat} (h : 9 + (field16 bs 7).toNat ≠ n) :
    decodeAndVerify bs n = none := by
  unfold decodeAndVerify
  split
  · rfl
  · exact if_pos h

/-- Settles O34: what follows the frame is no part of its length field. -/
theorem wrongByteCountIsInvalid : Obligations.WrongByteCountIsInvalid := by
  intro k q w p more n hp hn
  have hfield : field16 (frameBytes k q w p ++ more) 7 = BitVec.ofNat 16 p.length := by
    rw [frameBytes_eq_cons]
    exact be16Join_halves _
  apply decodeAndVerify_wrong_count
  rw [hfield, index_toNat (Nat.lt_succ_of_le hp) le_rfl]
  exact hn.symm

/-- A range that decodes whole carries the checksum of what follows its checksum field (R120). -/
theorem checksum_of_decodeAndVerify {bs : List Byte} {f : Frame} (h : decodeAndVerify bs bs.length = some f) :
    field16 bs 0 = crc16 (bs.drop 2) := by
  obtain ⟨_, hbs⟩ := encoded_of_decodeAndVerify h
  rw [hbs, frameBytes_checksum, frameBytes_drop_checksum]

/-- Replacing a byte of a range by another value changes its checksum. -/
theorem crc16_set {bs : List Byte} {j : Nat} {x : Byte} (hj : j < bs.length) (hx : x ≠ bs.getD j 0) :
    crc16 (bs.set j x) ≠ crc16 bs := by
  have hself : bs = bs.take j ++ bs.getD j 0 :: bs.drop (j + 1) := by
    rw [List.getD_eq_getElem _ _ hj, List.getElem_cons_drop, List.take_append_drop]
  rw [List.set_eq_take_append_cons_drop, if_pos hj]
  conv_rhs => rw [hself]
  exact crc16_change_byte _ _ hx

theorem getD_set_ne {bs : List Byte} {i j : Nat} (x : Byte) (h : j ≠ i) : (bs.set j x).getD i 0 = bs.getD i 0 := by
  rw [List.getD_eq_getElem?_getD, List.getElem?_set_ne h, List.getD_eq_getElem?_getD]

/-- Two bytes are determined by the field they make. -/
theorem getD_of_field16_eq {bs bs' : List Byte} (h : field16 bs 0 = field16 bs' 0) {j : Nat} (hj : j < 2) :
    bs.getD j 0 = bs'.getD j 0 := by
  obtain ⟨h0, h1⟩ := be16Join_inj h
  match j, hj with
  | 0, _ => exact h0
  | 1, _ => exact h1

/-- Settles O33: a change in the checksum field leaves the sum it is compared with, a change behind it leaves the field and
changes the sum. -/
theorem singleByteCorruptionIsRejected : Obligations.SingleByteCorruptionIsRejected := by
  intro k q w p j x hp hj hx
  set bs := frameBytes k q w p with hbs
  have hlen : bs.length = 9 + p.length := frameBytes_length k q w p
  have hsum : field16 bs 0 = crc16 (bs.drop 2) := by
    rw [hbs, frameBytes_checksum, frameBytes_drop_checksum]
  by_contra hvalid
  obtain ⟨f, hf⟩ := Option.ne_none_iff_exists'.mp hvalid
  rw [← hlen, ← List.length_set (i := j) (a := x)] at hf
  have hsum' := checksum_of_decodeAndVerify hf
  by_cases hfield : j < 2
  · have hrest : (bs.set j x).drop 2 = bs.drop 2 := List.drop_set_of_lt hfield
    rw [hrest, ← hsum] at hsum'
    have hsame := getD_of_field16_eq hsum' hfield
    rw [List.getD_eq_getElem _ _ (by rw [List.length_set]; omega), List.getElem_set_self] at hsame
    exact hx hsame
  · have hfield' : field16 (bs.set j x) 0 = field16 bs 0 := by
      rw [field16, getD_set_ne x (by omega), getD_set_ne x (by omega), field16]
    rw [hfield', hsum, List.drop_set, if_neg hfield] at hsum'
    refine crc16_set ?_ ?_ hsum'.symm
    · rw [List.length_drop]
      omega
    · rwa [List.getD_eq_getElem?_getD, List.getElem?_drop, show 2 + (j - 2) = j by omega, ← List.getD_eq_getElem?_getD]

end Sys2Proof.Machine
end

section
/-! What the Message Reader accumulates (`43_message_reader.md` R137 to R139, R147): the arrival of a whole frame, in one piece or in
any split, and what an oversize frame does (R141). -/
namespace Sys2Proof.Machine

/-! Arrivals. -/

/-- Settles O39: whatever is next to arrive is a burst of the next turn, which is received. -/
theorem arrivalsAreReceivedAlike : Obligations.ArrivalsAreReceivedAlike := by
  refine ⟨fun bs s rest hin hbusy hchan => step_burst (nextTurn_rxBurst (.inr ⟨hbusy, hchan⟩) hin),
    fun bs s later hchan hbusy hun => step_burst (nextTurn_channel hbusy hchan hun), fun s hbusy => ?_,
    fun bs s rest hin hidle hheld hne => ?_⟩
  · rw [rxTimeout_busy hbusy, receive, if_neg hbusy, List.take_nil, if_pos rfl, List.drop_nil, putBack_nil]
  · rw [step_burst (nextTurn_rxBurst (.inl ⟨hidle, hheld⟩) hin), receive_idle (s := { s with inputs := rest }) hidle,
      stayInChannel, if_neg hne]

/-- Settles O41: a frame is the arrival of its bytes, of which there are some. -/
theorem idleFrameStaysInTheChannel : Obligations.IdleFrameStaysInTheChannel := by
  intro i s hspace hidle
  rw [exec_wireFrame hspace, receive_idle hidle, stayInChannel, if_neg (encode_ne_nil i)]

/-! What only the reader's fields may do. -/

theorem OnlyReaderChanged.refl (s : State) : OnlyReaderChanged s s := rfl

theorem OnlyReaderChanged.iff_eq {s t : State} : OnlyReaderChanged s t ↔ t =
    { s with rxb := t.rxb, rxCount := t.rxCount, rxNeed := t.rxNeed, rdPhase := t.rdPhase, resp := t.resp } := by
  refine ⟨fun h => ?_, fun h => ?_⟩
  · rw [← show _ = s from h]
  · rw [h]
    rfl

theorem OnlyReaderChanged.trans {s t u : State} (hst : OnlyReaderChanged s t) (htu : OnlyReaderChanged t u) :
    OnlyReaderChanged s u := by
  rw [OnlyReaderChanged.iff_eq] at *
  rw [htu, hst]

/-! A frame tells its own length (R62, R138). -/

/-- The byte count at which the reader takes a frame for whole: what a data-bearing header announces, else the header. -/
def readLength (frame : List Byte) : Nat :=
  if frame.getD 2 0 = Config.kData then 9 + (field16 frame 7).toNat else 9

theorem readLength_frameBytes_data (q w : Word) {p : List Byte} (hp : p.length ≤ 65535) :
    readLength (frameBytes Config.kData q w p) = (frameBytes Config.kData q w p).length := by
  rw [readLength, frameBytes_kind, if_pos rfl, frameBytes_lengthField, index_toNat (Nat.lt_succ_of_le hp) le_rfl,
    frameBytes_length]

theorem wireBytes_kind (ck : Word) (k : Byte) (s t l : Word) (p : List Byte) : (wireBytes ck k s t l p).getD 2 0 = k := by
  rw [wireBytes_eq]
  rfl

theorem wireBytes_lengthField (ck : Word) (k : Byte) (s t l : Word) (p : List Byte) :
    field16 (wireBytes ck k s t l p) 7 = l := by
  rw [wireBytes_eq]
  exact be16Join_halves l

/-- Every well-formed frame is as long as it tells the reader. -/
theorem readLength_encode {i : Instr} (hspace : i.space = .wireFrame) (hwf : wellFormed i = true) :
    readLength (encode i) = (encode i).length := by
  cases i with
  | dataSend ck s t p =>
    have hp : p.length ≤ 65535 := of_decide_eq_true hwf
    rw [encode, readLength, wireBytes_kind, if_pos rfl, wireBytes_lengthField, index_toNat (Nat.lt_succ_of_le hp) le_rfl,
      wireBytes_length]
  | ack ck s t => rw [encode, readLength, wireBytes_kind, if_neg (by decide), wireBytes_length]; rfl
  | nack ck s t => rw [encode, readLength, wireBytes_kind, if_neg (by decide), wireBytes_length]; rfl
  | err ck s t => rw [encode, readLength, wireBytes_kind, if_neg (by decide), wireBytes_length]; rfl
  | rdreg | crcClr | crcUpd | txpClr | txpPush | encData | encAck | encNack | encErr | txfRd | readFrame | decode | rxbRd =>
    cases hspace

/-! A read of one frame, burst by burst. -/

/-- A frame that the buffer can hold and that tells its own length. -/
structure Readable (frame : List Byte) : Prop where
  fits : frame.length ≤ 1500
  readLength_eq : readLength frame = frame.length

theorem Readable.header {frame : List Byte} (h : Readable frame) : 9 ≤ frame.length := by
  rw [← h.readLength_eq, readLength]
  split <;> omega

/-- `got`, the first part of the frame, has been accumulated: the header is awaited, or the payload, or the read has ended with the
frame's length (R16, R137 to R139). -/
structure HasRead (frame got : List Byte) (s : State) : Prop where
  bytes : received s = got
  wf : Memory.wf s.rxb = true
  header : got.length < 9 → s.rdPhase = .hdr ∧ s.rxNeed.val = 9
  payload : 9 ≤ got.length → got.length < frame.length → s.rdPhase = .pay ∧ s.rxNeed.val = frame.length
  whole : got = frame → s.rdPhase = .idle ∧ s.rxNeed.val = frame.length ∧ s.resp = some (BitVec.ofNat 16 frame.length)

theorem received_length (s : State) : (received s).length = s.rxCount.val := memSlice_length ..

theorem HasRead.count {frame got : List Byte} {s : State} (h : HasRead frame got s) : s.rxCount.val = got.length := by
  rw [← received_length, h.bytes]

theorem HasRead.busy {frame got : List Byte} {s : State} (h : HasRead frame got s) (hlt : got.length < frame.length) :
    s.rdPhase ≠ .idle := by
  by_cases hhdr : got.length < 9
  · simp [h.header hhdr]
  · simp [h.payload (Nat.not_lt.mp hhdr) hlt]

/-- A read that has just started has accumulated nothing. -/
theorem HasRead.start {frame : List Byte} (hframe : Readable frame) {s : State} (h : ReadStarted s)
    (hwf : Memory.wf s.rxb = true) : HasRead frame [] s := by
  obtain ⟨hphase, hcount, hneed⟩ := h
  refine ⟨by rw [received, hcount]; rfl, hwf, fun _ => ⟨hphase, hneed⟩, fun hnine => absurd hnine (by decide), fun hnil => ?_⟩
  have := hframe.header
  simp [← hnil] at this

/-- Appending extends what is accumulated by the bytes that there is room for. -/
theorem received_appendBytes (bs : List Byte) {s : State} (hwf : Memory.wf s.rxb = true) :
    received (appendBytes bs s) = received s ++ bs.take (room s) :=
  memSlice_append hwf s.rxCount.val (bs.take (room s))

/-- The first bytes of a buffer, read one by one. -/
theorem memRead_eq_getD (m : Memory) {n k : Nat} (hk : k < n) : memRead m k = (memSlice m 0 n).getD k 0 := by
  rw [memSlice_getD _ _ _ hk, Nat.zero_add]

theorem memField16_eq_field16 (m : Memory) {n k : Nat} (hk : k + 1 < n) : memField16 m k = field16 (memSlice m 0 n) k := by
  rw [memField16, memRead_eq_getD m (Nat.lt_of_succ_lt hk), memRead_eq_getD m hk, field16]

/-- An accumulated byte reads as it was received. -/
theorem memRead_rxb {s : State} {k : Nat} (hk : k < s.rxCount.val) : memRead s.rxb k = (received s).getD k 0 :=
  memRead_eq_getD s.rxb hk

theorem memField16_rxb {s : State} {k : Nat} (hk : k + 1 < s.rxCount.val) : memField16 s.rxb k = field16 (received s) k :=
  memField16_eq_field16 s.rxb hk

theorem getD_of_prefix {got frame : List Byte} (h : got <+: frame) {k : Nat} (hk : k < got.length) :
    got.getD k 0 = frame.getD k 0 := by
  obtain ⟨more, rfl⟩ := h
  rw [List.getD_append _ _ _ _ hk]

section
variable {frame got : List Byte} {s : State} (hframe : Readable frame) (hbytes : received s = got) (hpre : got <+: frame)
  (hwf : Memory.wf s.rxb = true)
include hframe hbytes hpre hwf

/-- The completion test ends the read exactly when the whole frame is there. -/
theorem hasRead_completionTest (hheader : got.length < 9 → s.rdPhase = .hdr ∧ s.rxNeed.val = 9)
    (hpayload : 9 ≤ got.length → s.rdPhase = .pay ∧ s.rxNeed.val = frame.length) :
    HasRead frame got (completionTest s) := by
  have hcount : s.rxCount.val = got.length := by rw [← received_length, hbytes]
  have hnine := hframe.header
  rcases completionTest_cases s with ⟨hpay, hmet, e⟩ | ⟨hwait, e⟩ <;> rw [e]
  · have hlong : 9 ≤ got.length := Nat.not_lt.mp fun hshort => absurd (hpay.symm.trans (hheader hshort).1) (by decide)
    obtain ⟨_, hneed⟩ := hpayload hlong
    obtain rfl : got = frame := hpre.eq_of_length_le (by omega)
    exact ⟨hbytes, hwf, fun hshort => absurd hshort (by omega), fun _ hlt => absurd hlt (lt_irrefl _),
      fun _ => ⟨rfl, hneed, by rw [readComplete_resp, hcount]⟩⟩
  · refine ⟨hbytes, hwf, hheader, fun hlong _ => hpayload hlong, fun hall => absurd ?_ hwait⟩
    rw [← hall] at hnine
    obtain ⟨hpay, hneed⟩ := hpayload hnine
    exact ⟨hpay, by rw [hneed, hcount, hall]⟩

/-- A complete header announces the frame's length: the read ends with it, or awaits the payload (R138). -/
theorem hasRead_inspectHeader (hneed : s.rxNeed.val = 9) (hnine : 9 ≤ got.length) : HasRead frame got (inspectHeader s) := by
  have hcount : s.rxCount.val = got.length := by rw [← received_length, hbytes]
  have hkind : memRead s.rxb 2 = frame.getD 2 0 := by
    rw [memRead_rxb (by omega), hbytes, getD_of_prefix hpre (by omega)]
  have hlength : memField16 s.rxb 7 = field16 frame 7 := by
    rw [memField16_rxb (by omega), hbytes, field16, getD_of_prefix hpre (by omega), getD_of_prefix hpre (by omega), field16]
  have hread := hframe.readLength_eq
  rw [readLength, ← hkind, ← hlength] at hread
  rcases inspectHeader_cases s with ⟨hother, e⟩ | ⟨hdata, hbig, e⟩ | ⟨hdata, hfit, e⟩ <;> rw [e]
  · rw [if_neg hother] at hread
    obtain rfl : got = frame := hpre.eq_of_length_le (by omega)
    exact ⟨hbytes, hwf, fun hshort => absurd hshort (by omega), fun _ hlt => absurd hlt (lt_irrefl _),
      fun _ => ⟨rfl, hneed.trans hread, by rw [readComplete_resp, hcount]⟩⟩
  · rw [if_pos hdata] at hread
    have hfits := hframe.fits
    simp only [announced, Config.hdr, Config.rxcap, hread] at hbig
    omega
  · rw [if_pos hdata] at hread
    exact hasRead_completionTest (s := awaitPayload s hfit) hframe hbytes hpre hwf (fun hshort => absurd hshort (by omega))
      fun _ => ⟨rfl, hread⟩

end

/-- A burst that continues the frame fits into the buffer and is taken whole. -/
theorem HasRead.receive_eq {frame got bs : List Byte} {s : State} (hframe : Readable frame) (h : HasRead frame got s)
    (hne : bs ≠ []) (hpre : got ++ bs <+: frame) : receive bs s = rxBurst bs s ∧ bs.length ≤ room s := by
  have hle : got.length + bs.length ≤ frame.length := by simpa using hpre.length_le
  have hpos : 0 < bs.length := List.length_pos_iff.mpr hne
  have hfits : bs.length ≤ room s := by
    have := hframe.fits
    rw [room_eq, h.count, Config.rxcap]
    omega
  exact ⟨receive_fits (h.busy (by omega)) hne hfits, hfits⟩

/-- What is accumulated after one burst that continues the frame (R137 to R139). -/
theorem HasRead.burst {frame got bs : List Byte} {s : State} (hframe : Readable frame) (h : HasRead frame got s)
    (hne : bs ≠ []) (hpre : got ++ bs <+: frame) : HasRead frame (got ++ bs) (receive bs s) := by
  obtain ⟨hreceive, hfits⟩ := h.receive_eq hframe hne hpre
  have hpos : 0 < bs.length := List.length_pos_iff.mpr hne
  have hlt : got.length < frame.length := by
    have hle : got.length + bs.length ≤ frame.length := by simpa using hpre.length_le
    omega
  have hbytes : received (appendBytes bs s) = got ++ bs := by
    rw [received_appendBytes bs h.wf, h.bytes, List.take_of_length_le hfits]
  have hwf : Memory.wf (appendBytes bs s).rxb = true := wf_memWriteBytes h.wf _ _
  have hcount : (appendBytes bs s).rxCount.val = (got ++ bs).length := by rw [← received_length, hbytes]
  rw [hreceive, rxBurst]
  rcases afterAppend_cases (appendBytes bs s) with ⟨hhdr, hnine, e⟩ | ⟨hno, e⟩ <;> rw [e]
  · have hshort : got.length < 9 := Nat.not_le.mp fun hlong => absurd (hhdr.symm.trans (h.payload hlong hlt).1) (by decide)
    exact hasRead_inspectHeader hframe hbytes hpre hwf (h.header hshort).2 (hcount ▸ hnine)
  · -- The header is not complete yet, or it was before this burst.
    refine hasRead_completionTest hframe hbytes hpre hwf (fun hshort => h.header ?_) fun hlong => h.payload ?_ hlt
    · rw [List.length_append] at hshort
      omega
    · exact Nat.not_lt.mp fun hshort => hno ⟨(h.header hshort).1, by rw [hcount]; exact hlong⟩

/-- A burst that continues the frame touches nothing outside the reader, and no byte of the buffer beyond the frame. -/
theorem HasRead.burst_frame {frame got bs : List Byte} {s : State} (hframe : Readable frame) (h : HasRead frame got s)
    (hne : bs ≠ []) (hpre : got ++ bs <+: frame) : OnlyReaderChanged s (receive bs s) ∧
      ∀ a, frame.length ≤ a → memRead (receive bs s).rxb a = memRead s.rxb a := by
  obtain ⟨hreceive, hfits⟩ := h.receive_eq hframe hne hpre
  have hle : got.length + bs.length ≤ frame.length := by simpa using hpre.length_le
  rw [hreceive]
  refine ⟨rxBurst_onlyReaderChanged bs s, fun a ha => ?_⟩
  rw [rxBurst, afterAppend_rxb, appendBytes_rxb, List.take_of_length_le hfits, h.count]
  exact memRead_memWriteBytes_outside _ _ _ (by omega)

/-- However the rest of the frame is split, the read ends with the whole of it (R135, R147). -/
theorem HasRead.deliver_rest {frame : List Byte} (hframe : Readable frame) (bursts : List (List Byte)) :
    ∀ {got : List Byte} {s : State}, HasRead frame got s → (∀ bs ∈ bursts, bs ≠ []) → got ++ bursts.flatten = frame →
      HasRead frame frame (deliver bursts s) ∧ OnlyReaderChanged s (deliver bursts s) := by
  induction bursts with
  | nil =>
    intro got s h _ hall
    obtain rfl : got = frame := by simpa using hall
    exact ⟨h, .refl s⟩
  | cons bs bursts ih =>
    intro got s h hne hall
    rw [List.flatten_cons, ← List.append_assoc] at hall
    have hbs := hne bs List.mem_cons_self
    have hpre : got ++ bs <+: frame := ⟨_, hall⟩
    obtain ⟨hread, honly⟩ := ih (h.burst hframe hbs hpre) (fun b hb => hne b (List.mem_cons_of_mem _ hb)) hall
    exact ⟨hread, (h.burst_frame hframe hbs hpre).1.trans honly⟩

/-- An accumulated frame has its payload from index 9 on (R61). -/
theorem memSlice_payload {s : State} {k : Byte} {q w : Word} {p : List Byte} (h : received s = frameBytes k q w p) :
    memSlice s.rxb 9 p.length = p := by
  have hcount : s.rxCount.val = 9 + p.length := by rw [← received_length, h, frameBytes_length]
  rw [received, hcount, memSlice_add, Nat.zero_add] at h
  have hpayload := congrArg (List.drop 9) h
  rwa [List.drop_left' (memSlice_length ..), frameBytes_drop_header] at hpayload

theorem readable_encode {i : Instr} (hspace : i.space = .wireFrame) (hwf : wellFormed i = true)
    (hfits : (encode i).length ≤ 1500) : Readable (encode i) := ⟨hfits, readLength_encode hspace hwf⟩

/-- Settles O40: the whole frame is one burst of a read that has accumulated nothing. -/
theorem wholeFrameCompletesTheRead : Obligations.WholeFrameCompletesTheRead := by
  intro i s hspace hwf hfits hstart hmem
  have hframe := readable_encode hspace hwf hfits
  have hnone := HasRead.start hframe hstart hmem
  have hread := hnone.burst hframe (encode_ne_nil i) (List.prefix_refl _)
  obtain ⟨honly, hbeyond⟩ := hnone.burst_frame hframe (encode_ne_nil i) (List.prefix_refl _)
  obtain ⟨hphase, hneed, hresp⟩ := hread.whole rfl
  exact ⟨_, exec_wireFrame hspace s, hread.bytes, hread.count, hneed, hphase, hresp, hbeyond, honly⟩

/-- Settles O45: the bursts deliver the frame to a read that has accumulated nothing. -/
theorem splitOfAFrameDoesNotMatter : Obligations.SplitOfAFrameDoesNotMatter := by
  intro i bursts s hspace hwf hfits hne hall hstart hmem
  have hframe := readable_encode hspace hwf hfits
  obtain ⟨hread, honly⟩ := (HasRead.start hframe hstart hmem).deliver_rest hframe bursts hne hall
  obtain ⟨hphase, _, hresp⟩ := hread.whole rfl
  exact ⟨hread.bytes, hphase, hresp, honly⟩

/-- Settles O46: ENC_DATA stores an encoding, any split of it is accumulated whole, and it decodes to its fields. -/
theorem sentFrameIsReceivedWhole : Obligations.SentFrameIsReceivedWhole := by
  intro q w a a' b bursts hidle hwf henc hne hall hstart hmem
  rw [exec_encData_idle q w hidle] at henc
  obtain rfl := Host.Outcome.next.inj henc
  have hlen : (payload a).length = a.txPlen.val := memSlice_length ..
  have hmax : (payload a).length ≤ 20 := payload_length_le a
  rw [storeFrame_txFlen, storeFrame_slice _ _ _ _ _ hwf] at hall
  have hframe : Readable (frameBytes Config.kData q w (payload a)) :=
    ⟨by rw [frameBytes_length]; omega, readLength_frameBytes_data q w (by omega)⟩
  obtain ⟨hread, _⟩ := (HasRead.start hframe hstart hmem).deliver_rest hframe bursts hne hall
  have hfield : (BitVec.ofNat 16 (payload a).length).toNat = (payload a).length :=
    index_toNat (n := 21) (by omega) (by decide)
  have hvalid := decodeAndVerify_received_iff (f := ⟨Config.kData, q, w, BitVec.ofNat 16 (payload a).length, payload a⟩) |>.mpr
    ⟨hfield.symm, hread.bytes⟩
  refine ⟨_, exec_decode_idle (hread.whole rfl).1, ?_⟩
  rw [hvalid]
  refine ⟨rfl, rfl, rfl, rfl, rfl, hfield.trans hlen, ?_⟩
  show memSlice (deliver bursts b).rxb 9 a.txPlen.val = payload a
  rw [← hlen]
  exact memSlice_payload hread.bytes

/-! A frame that cannot fit (R141). -/

/-- At the start of a read, a data-bearing header that announces more than the buffer holds aborts the read in the step that
brings it, whatever follows it. -/
theorem receive_oversize {bs : List Byte} {s : State} (hstart : ReadStarted s) (hmem : Memory.wf s.rxb = true)
    (hlen : 9 ≤ bs.length) (hkind : bs.getD 2 0 = Config.kData) (hbig : 1500 < 9 + (field16 bs 7).toNat) :
    receive bs s = readAbort (appendBytes bs (putBack (bs.drop 1500) s)) := by
  obtain ⟨hphase, hcount, _⟩ := hstart
  have hroom : room s = 1500 := by rw [room_eq, hcount]; rfl
  have htake : 9 ≤ (bs.take 1500).length := by rw [List.length_take]; omega
  have hsome : bs.take (room s) ≠ [] := by
    rw [hroom]
    exact List.ne_nil_of_length_pos (by omega)
  rw [receive, if_neg (by simp [hphase]), if_neg hsome, hroom, rxBurst]
  set a := appendBytes bs (putBack (bs.drop 1500) s) with ha
  have hbytes : received a = bs.take 1500 := by
    rw [ha, received_appendBytes bs (by rwa [putBack_rxb]), putBack_room, hroom, received, putBack_rxCount, hcount]
    rfl
  have hacount : 9 ≤ a.rxCount.val := by rwa [← received_length, hbytes]
  have hdata : memRead a.rxb 2 = Config.kData := by
    rw [memRead_rxb (by omega), hbytes, getD_take (by decide), hkind]
  have hfield : memField16 a.rxb 7 = field16 bs 7 := by
    rw [memField16_rxb (by omega), hbytes, field16_take (by decide)]
  have hann : ¬ announced a ≤ Config.rxcap := by
    rw [announced, hfield]
    exact Nat.not_le.mpr hbig
  have hahdr : a.rdPhase = .hdr := by rw [ha, appendBytes_rdPhase, putBack_rdPhase, hphase]
  rw [afterAppend, if_pos ⟨hahdr, hacount⟩, inspectHeader, if_pos hdata, dif_neg hann]

/-- Settles O42: the buffer takes the first 1500 bytes, whose header announces more than it can hold. -/
theorem oversizeFrameAbortsTheRead : Obligations.OversizeFrameAbortsTheRead := by
  intro ck q w p s hp hbig hstart hmem
  have hlen : (encode (.dataSend ck q w p)).length = 9 + p.length := wireBytes_length ..
  have hann : 1500 < 9 + (field16 (encode (.dataSend ck q w p)) 7).toNat := by
    rw [encode, wireBytes_lengthField, index_toNat (Nat.lt_succ_of_le hp) le_rfl]
    exact hbig
  have hreceive := receive_oversize (bs := encode (.dataSend ck q w p)) hstart hmem (by omega) (wireBytes_kind ..) hann
  have hrest : (encode (.dataSend ck q w p)).drop 1500 ≠ [] := List.ne_nil_of_length_pos (by rw [List.length_drop]; omega)
  rw [putBack, if_neg hrest] at hreceive
  refine ⟨_, (exec_wireFrame rfl s).trans (congrArg _ hreceive), rfl, rfl, rfl, rfl, rfl, fun a ha => ?_, rfl⟩
  exact memRead_memWriteBytes_outside _ _ _ (.inr ((Nat.le_of_lt_succ (count_add_take_le ..)).trans ha))

end Sys2Proof.Machine
end

section
/-! The canonical form of the three buffers (`20_memory.md` R40): every operation, instruction and step keeps it. -/
namespace Sys2Proof.Machine

/-- What leaves the three buffers alone keeps their form. -/
theorem BuffersWf.of_eq {s t : State} (h : BuffersWf s) (htxp : t.txp = s.txp) (htxf : t.txf = s.txf) (hrxb : t.rxb = s.rxb) :
    BuffersWf t :=
  ⟨htxp ▸ h.txp, htxf ▸ h.txf, hrxb ▸ h.rxb⟩

theorem SameBlock.buffersWf {s u : State} (hu : SameBlock s u) (h : BuffersWf s) : BuffersWf u :=
  h.of_eq (by rw [hu]) (by rw [hu]) (by rw [hu])

theorem atPort_buffersWf {run : State → State} {s : State} (h : BuffersWf s) (hrun : BuffersWf (run s)) (bytes : List Byte) :
    BuffersWf (atPort bytes run s) := by
  rcases atPort_cases bytes run s with ⟨_, e⟩ | ⟨_, e⟩ <;> rw [e]
  · exact hrun
  · exact h.of_eq rfl rfl rfl

theorem malformed_buffersWf {s : State} (h : BuffersWf s) (bytes : List Byte) : BuffersWf (malformed bytes s) :=
  atPort_buffersWf h (h.of_eq rfl rfl rfl) bytes

theorem answerOperand_buffersWf {s : State} (h : BuffersWf s) (v : Option Word) : BuffersWf (answerOperand v s) := by
  cases v <;> exact h.of_eq rfl rfl rfl

theorem storeDecoded_buffersWf {s : State} (h : BuffersWf s) (r : Option Frame) : BuffersWf (storeDecoded r s) := by
  cases r <;> exact h.of_eq rfl rfl rfl

/-- A pushed byte is written below MAXP (R102). -/
theorem pushByte_buffersWf {s : State} (h : BuffersWf s) (b : Byte) : BuffersWf (pushByte b s) := by
  rcases pushByte_cases b s with ⟨hroom, e⟩ | ⟨_, e⟩ <;> rw [e]
  · exact ⟨⟨wf_memWrite h.txp.1 _ b, within_memWrite h.txp.2 hroom b⟩, h.txf, h.rxb⟩
  · exact h.of_eq rfl rfl rfl

/-- A frame of at most MAXP payload bytes fits TXFCAP (R100). -/
theorem storeFrame_buffersWf {s : State} (h : BuffersWf s) (kind : Byte) (seq total : Word) (p : List Byte)
    (hp : p.length ≤ Config.maxp) : BuffersWf (storeFrame kind seq total p hp s) := by
  have hfits : 0 + (frameBytes kind seq total p).length ≤ Config.txfcap := by
    rw [frameBytes_length, Config.txfcap, Config.hdr]
    omega
  exact ⟨h.txp, ⟨wf_memWriteBytes h.txf.1 _ _, within_memWriteBytes h.txf.2 hfits⟩, h.rxb⟩

/-- A burst is written below RXCAP (R137). -/
theorem rxBurst_buffersWf {s : State} (h : BuffersWf s) (bs : List Byte) : BuffersWf (rxBurst bs s) := by
  obtain ⟨c, n, p, r, e⟩ := rxBurst_only bs s
  rw [e]
  exact ⟨h.txp, h.txf, wf_memWriteBytes h.rxb.1 _ _,
    within_memWriteBytes h.rxb.2 (Nat.le_of_lt_succ (count_add_take_le bs s))⟩

theorem receive_buffersWf {s : State} (h : BuffersWf s) (bs : List Byte) : BuffersWf (receive bs s) := by
  have hput (rest : List Byte) : BuffersWf (putBack rest s) := h.of_eq (by simp) (by simp) (by simp)
  rcases receive_cases bs s with ⟨_, e⟩ | ⟨_, _, e⟩ | ⟨_, _, e⟩ <;> rw [e]
  · exact h.of_eq (by simp) (by simp) (by simp)
  · exact (hput _).of_eq rfl rfl rfl
  · exact rxBurst_buffersWf (hput _) bs

theorem rxTimeout_buffersWf {s : State} (h : BuffersWf s) : BuffersWf (rxTimeout s) := by
  unfold rxTimeout
  split
  · exact h
  · exact h.of_eq rfl rfl rfl

theorem exec_buffersWf {i : Instr} {s t : State} (h : BuffersWf s) (hrun : exec i s = .next t) : BuffersWf t := by
  cases i with
  | dataSend | ack | nack | err => cases hrun; exact receive_buffersWf h _
  | rdreg | txfRd | rxbRd => cases hrun; exact atPort_buffersWf h (answerOperand_buffersWf h _) _
  | decode => cases hrun; exact atPort_buffersWf h (storeDecoded_buffersWf h _) _
  | txpPush b => cases hrun; exact atPort_buffersWf h (pushByte_buffersWf h b) _
  | encData q w =>
    cases hrun
    exact atPort_buffersWf h (storeFrame_buffersWf h Config.kData q w (payload s) (payload_length_le s)) _
  | encAck q w => cases hrun; exact atPort_buffersWf h (storeFrame_buffersWf h Config.kAck q w [] (by decide)) _
  | encNack q w => cases hrun; exact atPort_buffersWf h (storeFrame_buffersWf h Config.kNack q w [] (by decide)) _
  | encErr => cases hrun; exact atPort_buffersWf h (storeFrame_buffersWf h Config.kErr 0 0 [] (by decide)) _
  | crcClr | crcUpd | txpClr | readFrame => cases hrun; exact atPort_buffersWf h (h.of_eq rfl rfl rfl) _

theorem buffersWf_reset : BuffersWf State.reset := by constructor <;> decide

/-- Settles O50: one lemma per case of a step. -/
theorem everyStepKeepsTheBuffers : Obligations.EveryStepKeepsTheBuffers := by
  intro s t h hstep
  rcases step_cases hstep with rfl | ⟨rest, _, rfl⟩ | ⟨rest, _, rfl⟩ | ⟨_, _, u, hu, _, hrun⟩ | ⟨bytes, u, hu, rfl⟩ |
    ⟨_, _, u, hu, _, hrun⟩ | ⟨bytes, u, hu, rfl⟩
  · exact h
  · exact buffersWf_reset.of_eq rfl rfl rfl
  · exact rxTimeout_buffersWf (h.of_eq rfl rfl rfl)
  · exact exec_buffersWf (hu.buffersWf h) hrun
  · exact malformed_buffersWf (hu.buffersWf h) bytes
  · exact exec_buffersWf (hu.buffersWf h) hrun
  · exact receive_buffersWf (hu.buffersWf h) bytes

end Sys2Proof.Machine
end

section
/-! The phases of a read (`10_state.md` R16, R27): one arrival ends the read or leaves it further on; with it R142's answers and
R144's bound. -/
namespace Sys2Proof.Machine

/-- What R27 says of a read in progress. -/
structure ReaderInv (s : State) : Prop where
  rxNeed : 9 ≤ s.rxNeed.val
  hdr : s.rdPhase = .hdr → s.rxCount.val < 9 ∧ s.rxNeed.val = 9
  pay : s.rdPhase = .pay → 9 ≤ s.rxCount.val ∧ s.rxCount.val < s.rxNeed.val ∧ memRead s.rxb 2 = 0x01 ∧
    s.rxNeed.val = 9 + (memField16 s.rxb 7).toNat

theorem BlockInv.reader {s : State} (h : BlockInv s) : ReaderInv s := ⟨h.rxNeed, h.hdr, h.pay⟩

/-- An idle block needs no more than a bound on what is needed. -/
theorem ReaderInv.of_idle {s : State} (hidle : s.rdPhase = .idle) (hneed : 9 ≤ s.rxNeed.val) : ReaderInv s :=
  ⟨hneed, fun h => absurd (hidle.symm.trans h) (by decide), fun h => absurd (hidle.symm.trans h) (by decide)⟩

theorem putBack_readerInv {s : State} (h : ReaderInv s) (bs : List Byte) : ReaderInv (putBack bs s) := by
  unfold putBack
  split
  · exact h
  · exact ⟨h.rxNeed, h.hdr, h.pay⟩

/-- The read has ended with R142's answer: 0 and nothing accumulated, or the byte count, which is at least 9. -/
structure ReadEnded (t : State) : Prop where
  idle : t.rdPhase = .idle
  rxNeed : 9 ≤ t.rxNeed.val
  answer : (t.resp = some 0 ∧ t.rxCount.val = 0) ∨ (t.resp = some (BitVec.ofNat 16 t.rxCount.val) ∧ 9 ≤ t.rxCount.val)

/-- The read goes on with `n` bytes accumulated. -/
structure ReadGoesOn (n : Nat) (t : State) : Prop where
  busy : t.rdPhase ≠ .idle
  count : t.rxCount.val = n
  inv : ReaderInv t

theorem readEnded_readAbort (s : State) : ReadEnded (readAbort s) := ⟨rfl, le_rfl, .inl ⟨rfl, rfl⟩⟩

theorem readEnded_readComplete {s : State} (hneed : 9 ≤ s.rxNeed.val) (hcount : 9 ≤ s.rxCount.val) :
    ReadEnded (readComplete s) := ⟨rfl, hneed, .inr ⟨rfl, hcount⟩⟩

/-- In phase PAY, the completion test ends the read or leaves it needing more than it has. -/
theorem completionTest_pay {s : State} (hpay : s.rdPhase = .pay) (hcount : 9 ≤ s.rxCount.val)
    (hkind : memRead s.rxb 2 = 0x01) (hneed : s.rxNeed.val = 9 + (memField16 s.rxb 7).toNat) :
    ReadEnded (completionTest s) ∨ ReadGoesOn s.rxCount.val (completionTest s) := by
  rcases completionTest_cases s with ⟨_, _, e⟩ | ⟨hwait, e⟩ <;> rw [e]
  · exact .inl (readEnded_readComplete (by omega) hcount)
  · have hlt : s.rxCount.val < s.rxNeed.val := Nat.not_le.mp fun hmet => hwait ⟨hpay, hmet⟩
    exact .inr ⟨by simp [hpay], rfl, by show 9 ≤ s.rxNeed.val; omega, fun h => absurd (hpay.symm.trans h) (by decide),
      fun _ => ⟨hcount, hlt, hkind, hneed⟩⟩

/-- The header's inspection ends the read or turns to the payload (R138). -/
theorem inspectHeader_outcome {s : State} (hneed : 9 ≤ s.rxNeed.val) (hcount : 9 ≤ s.rxCount.val) :
    ReadEnded (inspectHeader s) ∨ ReadGoesOn s.rxCount.val (inspectHeader s) := by
  rcases inspectHeader_cases s with ⟨_, e⟩ | ⟨_, _, e⟩ | ⟨hdata, hfit, e⟩ <;> rw [e]
  · exact .inl (readEnded_readComplete hneed hcount)
  · exact .inl (readEnded_readAbort s)
  · exact completionTest_pay (s := awaitPayload s hfit) rfl hcount hdata rfl

/-- Bytes below the count are no part of the append. -/
theorem appendBytes_memRead {bs : List Byte} {s : State} {k : Nat} (hk : k < s.rxCount.val) :
    memRead (appendBytes bs s).rxb k = memRead s.rxb k :=
  memRead_memWriteBytes_outside _ _ _ (.inl hk)

/-- One burst ends the read or leaves it with the burst's bytes accumulated (R137 to R139). -/
theorem rxBurst_outcome {s : State} (h : ReaderInv s) (hbusy : s.rdPhase ≠ .idle) (bs : List Byte) :
    ReadEnded (rxBurst bs s) ∨ ReadGoesOn (s.rxCount.val + (bs.take (room s)).length) (rxBurst bs s) := by
  set a := appendBytes bs s with ha
  have hle : s.rxCount.val ≤ a.rxCount.val := Nat.le_add_right ..
  show ReadEnded (afterAppend a) ∨ ReadGoesOn a.rxCount.val (afterAppend a)
  rcases afterAppend_cases a with ⟨_, hnine, e⟩ | ⟨hno, e⟩ <;> rw [e]
  · exact inspectHeader_outcome h.rxNeed hnine
  cases hphase : s.rdPhase with
  | idle => exact absurd hphase hbusy
  | hdr =>
    -- The header is still incomplete.
    have hahdr : a.rdPhase = .hdr := hphase
    have hshort : a.rxCount.val < 9 := Nat.not_le.mp fun hnine => hno ⟨hahdr, hnine⟩
    have hwaits : completionTest a = silent a := if_neg fun hpay => absurd (hahdr.symm.trans hpay.1) (by decide)
    rw [hwaits]
    exact .inr ⟨by simp [hahdr], rfl, h.rxNeed, fun _ => ⟨hshort, (h.hdr hphase).2⟩,
      fun hpay => absurd (hahdr.symm.trans hpay) (by decide)⟩
  | pay =>
    -- The header came before this burst, which leaves it alone.
    obtain ⟨hcount, _, hkind, hneed⟩ := h.pay hphase
    refine completionTest_pay hphase (by omega) ?_ ?_
    · rw [ha, appendBytes_memRead (by omega), hkind]
    · rw [ha, appendBytes_rxNeed, hneed, memField16, memField16, appendBytes_memRead (by omega),
        appendBytes_memRead (by omega)]

/-- Whatever the channel has ends the read, or leaves it further on by at least one byte. -/
theorem receive_outcome {s : State} (h : ReaderInv s) (hbusy : s.rdPhase ≠ .idle) (bs : List Byte) :
    ReadEnded (receive bs s) ∨ ∃ n, s.rxCount.val < n ∧ ReadGoesOn n (receive bs s) := by
  rcases receive_cases bs s with ⟨hidle, _⟩ | ⟨_, _, e⟩ | ⟨_, hsome, e⟩
  · exact absurd hidle hbusy
  · rw [e]
    exact .inl (readEnded_readAbort _)
  · have hpos := List.length_pos_iff.mpr hsome
    have hout := rxBurst_outcome (putBack_readerInv h (bs.drop (room s))) (by rwa [putBack_rdPhase]) bs
    rw [putBack_room, putBack_rxCount, ← e] at hout
    exact hout.imp_right fun hgoes => ⟨_, by omega, hgoes⟩

theorem SameBlock.reader {s u : State} (hu : SameBlock s u) (h : ReaderInv s) : ReaderInv u := by
  rw [hu]
  exact ⟨h.rxNeed, h.hdr, h.pay⟩

theorem SameBlock.rdPhase {s u : State} (hu : SameBlock s u) : u.rdPhase = s.rdPhase := by rw [hu]

/-- But for RESET, a step of a busy block waits, holds a transaction, aborts the read at a timeout, or receives. -/
theorem step_busy_cases {s t : State} (hstep : step s = .next t) (hbusy : s.rdPhase ≠ .idle)
    (hr : ∀ rest, s.inputs ≠ .reset :: rest) :
    t.rdPhase = s.rdPhase ∨ (∃ u, t = readAbort u) ∨ ∃ bytes u, SameBlock s u ∧ t = receive bytes u := by
  rcases step_cases hstep with rfl | ⟨rest, hin, _⟩ | ⟨rest, _, rfl⟩ | ⟨bytes, i, u, hu, hd, hrun⟩ | ⟨bytes, u, hu, rfl⟩ |
    ⟨bytes, i, u, hu, hd, hrun⟩ | ⟨bytes, u, hu, rfl⟩
  · exact .inl rfl
  · exact absurd hin (hr rest)
  · exact .inr (.inl ⟨_, rxTimeout_busy hbusy⟩)
  · obtain ⟨hspace, _, _⟩ := encode_of_decodeCommand hd
    rw [exec_command_busy hspace (by rwa [hu.rdPhase])] at hrun
    cases hrun
    exact .inl hu.rdPhase
  · rw [malformed, atPort_busy (by rwa [hu.rdPhase])]
    exact .inl hu.rdPhase
  · rw [exec_wireFrame (decodeFrame_space hd)] at hrun
    cases hrun
    exact .inr (.inr ⟨_, u, hu, rfl⟩)
  · exact .inr (.inr ⟨bytes, u, hu, rfl⟩)

/-- The answer as R142 puts it: the byte count fits 16 bits. -/
theorem ReadEnded.answers {t : State} (h : ReadEnded t) : (t.resp = some 0 ∧ t.rxCount.val = 0) ∨
    ∃ v : Word, t.resp = some v ∧ v.toNat = t.rxCount.val ∧ 9 ≤ t.rxCount.val :=
  h.answer.imp_right fun ⟨hresp, hnine⟩ => ⟨_, hresp, index_toNat t.rxCount.isLt (by decide), hnine⟩

/-- Settles O43: of the steps of a busy block only an abort and an arrival can end the read. -/
theorem readAnswersZeroOrAtLeastNine : Obligations.ReadAnswersZeroOrAtLeastNine := by
  intro s t hinv hbusy hr hstep hidle
  rcases step_busy_cases hstep hbusy hr with hsame | ⟨u, rfl⟩ | ⟨bytes, u, hu, rfl⟩
  · exact absurd (hsame.symm.trans hidle) hbusy
  · exact (readEnded_readAbort u).answers
  · rcases receive_outcome (hu.reader hinv.reader) (by rwa [hu.rdPhase]) bytes with hended | ⟨n, _, hgoes⟩
    · exact hended.answers
    · exact absurd hidle hgoes.busy

/-- A read in progress has room for at least one byte more. -/
theorem ReaderInv.room_pos {s : State} (h : ReaderInv s) (hbusy : s.rdPhase ≠ .idle) : s.rxCount.val < 1500 := by
  have hcap : s.rxNeed.val < 1500 + 1 := s.rxNeed.isLt
  cases hphase : s.rdPhase with
  | idle => exact absurd hphase hbusy
  | hdr =>
    obtain ⟨hcount, _⟩ := h.hdr hphase
    omega
  | pay =>
    obtain ⟨_, hlt, _⟩ := h.pay hphase
    omega

/-- As many bursts as there is room end the read: each one ends it or takes up room. -/
theorem deliver_ends (bursts : List (List Byte)) : ∀ {s : State}, ReaderInv s → s.rdPhase ≠ .idle →
    1500 - s.rxCount.val ≤ bursts.length → ∃ k, k ≤ bursts.length ∧ (deliver (bursts.take k) s).rdPhase = .idle := by
  induction bursts with
  | nil =>
    intro s h hbusy hlen
    have hroom := h.room_pos hbusy
    simp only [List.length_nil] at hlen
    omega
  | cons bs bursts ih =>
    intro s h hbusy hlen
    rw [List.length_cons] at hlen ⊢
    rcases receive_outcome h hbusy bs with hended | ⟨n, hn, hgoes⟩
    · exact ⟨1, by omega, hended.idle⟩
    · have hcount := hgoes.count
      obtain ⟨k, hk, hidle⟩ := ih hgoes.inv hgoes.busy (by omega)
      exact ⟨k + 1, by omega, hidle⟩

/-- Settles O44: `deliver_ends`; an empty burst, a timeout, would end the read too. -/
theorem readsEndWithinTheCapacity : Obligations.ReadsEndWithinTheCapacity :=
  fun _ bursts hinv hbusy _ hlen => deliver_ends bursts hinv.reader hbusy hlen

end Sys2Proof.Machine
end

section
/-! The invariant of reachable states (`10_state.md` R27): it holds at reset, and every operation, instruction and step keeps it. -/
namespace Sys2Proof.Machine

/-! What R27 does not speak of. -/

/-- The two states differ at most in the accumulator, the payload buffer, the sticky flags, the response and what waits outside. -/
def SameFrames (s t : State) : Prop := t = { s with
  crc := t.crc, txp := t.txp, txPlen := t.txPlen, txOvf := t.txOvf, cmdErr := t.cmdErr, resp := t.resp, held := t.held,
  chan := t.chan, inputs := t.inputs }

theorem DecodedValid.of_sameFrames {s t : State} (hst : SameFrames s t) (h : DecodedValid s) : DecodedValid t := by
  rw [hst]
  exact ⟨h.idle, h.header, h.count, h.kind, h.seq, h.total, h.length, h.checksum⟩

theorem BlockInv.of_sameFrames {s t : State} (h : BlockInv s) (hst : SameFrames s t) : BlockInv t := by
  have hvalid : t.rxValid = true → DecodedValid t := fun hv =>
    (h.valid (by rw [hst] at hv; exact hv)).of_sameFrames hst
  rw [hst] at hvalid ⊢
  exact ⟨h.txFlen, h.rxNeed, h.hdr, h.pay, hvalid, h.invalid, h.frame⟩

theorem SameBlock.blockInv {s u : State} (hu : SameBlock s u) (h : BlockInv s) : BlockInv u :=
  h.of_sameFrames (by rw [hu]; rfl)

theorem putBack_sameFrames (bs : List Byte) (s : State) : SameFrames s (putBack bs s) := by
  unfold putBack
  split <;> rfl

theorem stayInChannel_sameFrames (bs : List Byte) (s : State) : SameFrames s (stayInChannel bs s) := by
  unfold stayInChannel
  split <;> rfl

theorem answerOperand_sameFrames (v : Option Word) (s : State) : SameFrames s (answerOperand v s) := by
  cases v <;> rfl

theorem pushByte_sameFrames (b : Byte) (s : State) : SameFrames s (pushByte b s) := by
  rcases pushByte_cases b s with ⟨_, e⟩ | ⟨_, e⟩ <;> rw [e] <;> rfl

theorem atPort_blockInv {run : State → State} {s : State} (h : BlockInv s) (hrun : s.rdPhase = .idle → BlockInv (run s))
    (bytes : List Byte) : BlockInv (atPort bytes run s) := by
  rcases atPort_cases bytes run s with ⟨hidle, e⟩ | ⟨_, e⟩ <;> rw [e]
  · exact hrun hidle
  · exact h.of_sameFrames rfl

theorem malformed_blockInv {s : State} (h : BlockInv s) (bytes : List Byte) : BlockInv (malformed bytes s) := by
  refine atPort_blockInv h (fun _ => ?_) bytes
  exact h.of_sameFrames rfl

/-! The reader. -/

/-- A read in progress has no frame decoded (R17). -/
theorem BlockInv.not_valid {s : State} (h : BlockInv s) (hbusy : s.rdPhase ≠ .idle) : s.rxValid = false :=
  Bool.eq_false_iff.mpr fun hv => hbusy (h.valid hv).idle

/-- While a read is in progress, what keeps the reader's clauses and touches nothing else keeps the invariant. -/
theorem BlockInv.of_reader {s t : State} (h : BlockInv s) (hbusy : s.rdPhase ≠ .idle) (honly : OnlyReaderChanged s t)
    (hreader : ReaderInv t) : BlockInv t := by
  have hvalid := h.not_valid hbusy
  obtain ⟨hneed, hhdr, hpay⟩ := hreader
  rw [OnlyReaderChanged.iff_eq] at honly
  rw [honly] at hneed hhdr hpay ⊢
  exact ⟨h.txFlen, hneed, hhdr, hpay, fun hv => absurd (hvalid.symm.trans hv) (by decide), h.invalid, h.frame⟩

theorem readAbort_blockInv {s : State} (h : BlockInv s) (hbusy : s.rdPhase ≠ .idle) : BlockInv (readAbort s) :=
  h.of_reader hbusy rfl (.of_idle rfl le_rfl)

theorem rxBurst_blockInv {s : State} (h : BlockInv s) (hbusy : s.rdPhase ≠ .idle) (bs : List Byte) :
    BlockInv (rxBurst bs s) := by
  refine h.of_reader hbusy (rxBurst_onlyReaderChanged bs s) ?_
  rcases rxBurst_outcome h.reader hbusy bs with hended | hgoes
  · exact .of_idle hended.idle hended.rxNeed
  · exact hgoes.inv

theorem receive_blockInv {s : State} (h : BlockInv s) (bs : List Byte) : BlockInv (receive bs s) := by
  have hput := h.of_sameFrames (putBack_sameFrames (bs.drop (room s)) s)
  rcases receive_cases bs s with ⟨_, e⟩ | ⟨hbusy, _, e⟩ | ⟨hbusy, _, e⟩ <;> rw [e]
  · exact h.of_sameFrames (stayInChannel_sameFrames bs s)
  · exact readAbort_blockInv hput (by rwa [putBack_rdPhase])
  · exact rxBurst_blockInv hput (by rwa [putBack_rdPhase]) bs

theorem rxTimeout_blockInv {s : State} (h : BlockInv s) : BlockInv (rxTimeout s) := by
  by_cases hidle : s.rdPhase = .idle
  · rwa [rxTimeout_idle hidle]
  · rw [rxTimeout_busy hidle]
    exact readAbort_blockInv h hidle

/-- A read starts with no frame decoded and nothing accumulated (R136). -/
theorem beginRead_blockInv {s : State} (h : BlockInv s) : BlockInv (beginRead s) :=
  ⟨h.txFlen, le_rfl, fun _ => ⟨Nat.succ_pos 8, rfl⟩, nofun, nofun,
    fun _ => ⟨rfl, rfl, rfl, rfl⟩, h.frame⟩

/-! The codec. -/

/-- The bytes of a frame that stands at the start of a buffer: its checksum field and its length field. -/
theorem frame_fields {m : Memory} {k : Byte} {q w : Word} {p : List Byte} (hp : p.length ≤ 65535)
    (h : memSlice m 0 (9 + p.length) = frameBytes k q w p) :
    memField16 m 0 = crc16 (memSlice m 2 (9 + p.length - 2)) ∧ (memField16 m 7).toNat = p.length := by
  have hrest : memSlice m 2 (9 + p.length - 2) = frameBody k q w p := by
    rw [← frameBytes_drop_checksum, ← h, show 9 + p.length = 2 + (9 + p.length - 2) by omega, memSlice_add,
      List.drop_left' (memSlice_length ..), Nat.zero_add, Nat.add_sub_cancel_left]
  refine ⟨?_, ?_⟩
  · rw [hrest, memField16_eq_field16 m (n := 9 + p.length) (by omega), h, frameBytes_checksum]
  · rw [memField16_eq_field16 m (n := 9 + p.length) (by omega), h, frameBytes_lengthField,
      index_toNat (Nat.lt_succ_of_le hp) le_rfl]

/-- A stored frame carries its own checksum and length (R13, R100). -/
theorem storeFrame_blockInv {s : State} (h : BlockInv s) (hwf : Memory.wf s.txf = true) (kind : Byte) (seq total : Word)
    (p : List Byte) (hp : p.length ≤ Config.maxp) : BlockInv (storeFrame kind seq total p hp s) := by
  have hmax : p.length ≤ 65535 := hp.trans (by decide)
  obtain ⟨hsum, hlength⟩ := frame_fields hmax (storeFrame_slice kind seq total p hp hwf)
  have hvalid : (storeFrame kind seq total p hp s).rxValid = true → DecodedValid (storeFrame kind seq total p hp s) := by
    intro hv
    have hd := h.valid hv
    exact ⟨hd.idle, hd.header, hd.count, hd.kind, hd.seq, hd.total, hd.length, hd.checksum⟩
  refine ⟨?_, h.rxNeed, h.hdr, h.pay, hvalid, h.invalid, fun _ => ?_⟩
  · rw [storeFrame_txFlen]
    omega
  · rw [storeFrame_txFlen, hlength]
    exact ⟨hsum, rfl⟩

/-- A frame that decodes from the accumulated bytes describes them (R17, R18, R121). -/
theorem decodedValid_of_decodeAndVerify {s : State} {f : Frame} (hidle : s.rdPhase = .idle)
    (h : decodeAndVerify (received s) s.rxCount.val = some f) : DecodedValid { s with
      rxValid := true, rxKind := f.kind, rxSeq := f.sequence, rxTotal := f.total, rxLen := f.length, resp := some 1 } := by
  obtain ⟨hlen, hbytes⟩ := decodeAndVerify_received_iff.mp h
  have hcount : s.rxCount.val = 9 + f.payload.length := by rw [← received_length, hbytes, frameBytes_length]
  have hmax : f.payload.length ≤ 65535 := by rw [hlen]; exact Nat.le_of_lt_succ f.length.isLt
  have hslice : memSlice s.rxb 0 (9 + f.payload.length) = frameBytes f.kind f.sequence f.total f.payload := by
    rw [← hcount]
    exact hbytes
  obtain ⟨hsum, hfield⟩ := frame_fields hmax hslice
  refine ⟨hidle, ?_, hcount.trans (by rw [hlen]), ?_, ?_, ?_, BitVec.eq_of_toNat_eq (hlen.symm.trans hfield.symm), ?_⟩
  · show 9 ≤ s.rxCount.val
    omega
  · show f.kind = memRead s.rxb 2
    rw [memRead_rxb (by omega), hbytes, frameBytes_kind]
  · show f.sequence = memField16 s.rxb 3
    rw [memField16_rxb (by omega), hbytes, frameBytes_sequence]
  · show f.total = memField16 s.rxb 5
    rw [memField16_rxb (by omega), hbytes, frameBytes_total]
  · show crc16 (memSlice s.rxb 2 (s.rxCount.val - 2)) = memField16 s.rxb 0
    rw [hcount, hsum]

/-- DECODE stores fields that describe the buffer, or clears them (R121). -/
theorem storeDecoded_blockInv {s : State} (h : BlockInv s) (hidle : s.rdPhase = .idle) :
    BlockInv (storeDecoded (decodeAndVerify (received s) s.rxCount.val) s) := by
  cases hd : decodeAndVerify (received s) s.rxCount.val with
  | none => exact ⟨h.txFlen, h.rxNeed, h.hdr, h.pay, nofun, fun _ => ⟨rfl, rfl, rfl, rfl⟩, h.frame⟩
  | some f =>
    exact ⟨h.txFlen, h.rxNeed, h.hdr, h.pay, fun _ => decodedValid_of_decodeAndVerify hidle hd, nofun, h.frame⟩

/-! Instructions and steps. -/

theorem exec_blockInv {i : Instr} {s t : State} (h : BlockInv s) (hwf : BuffersWf s) (hrun : exec i s = .next t) :
    BlockInv t := by
  have stores (kind : Byte) (seq total : Word) (p : List Byte) (hp : p.length ≤ Config.maxp) :=
    storeFrame_blockInv h hwf.txf.1 kind seq total p hp
  cases i with
  | dataSend | ack | nack | err => cases hrun; exact receive_blockInv h _
  | rdreg | txfRd | rxbRd => cases hrun; exact atPort_blockInv h (fun _ => h.of_sameFrames (answerOperand_sameFrames _ s)) _
  | decode => cases hrun; exact atPort_blockInv h (storeDecoded_blockInv h) _
  | readFrame => cases hrun; exact atPort_blockInv h (fun _ => beginRead_blockInv h) _
  | txpPush b => cases hrun; exact atPort_blockInv h (fun _ => h.of_sameFrames (pushByte_sameFrames b s)) _
  | encData q w =>
    cases hrun
    exact atPort_blockInv h (fun _ => stores Config.kData q w (payload s) (payload_length_le s)) _
  | encAck q w => cases hrun; exact atPort_blockInv h (fun _ => stores Config.kAck q w [] (by decide)) _
  | encNack q w => cases hrun; exact atPort_blockInv h (fun _ => stores Config.kNack q w [] (by decide)) _
  | encErr => cases hrun; exact atPort_blockInv h (fun _ => stores Config.kErr 0 0 [] (by decide)) _
  | crcClr | crcUpd | txpClr =>
    cases hrun
    refine atPort_blockInv h (fun _ => ?_) _
    exact h.of_sameFrames rfl

theorem blockInv_reset : BlockInv State.reset where
  txFlen := .inl rfl
  rxNeed := le_rfl
  hdr h := absurd h (by decide)
  pay h := absurd h (by decide)
  valid h := absurd h (by decide)
  invalid _ := ⟨rfl, rfl, rfl, rfl⟩
  frame h := absurd h (by decide)

/-- Settles O49: both hold of the reset state's values. -/
theorem invariantHoldsAtReset : Obligations.InvariantHoldsAtReset := ⟨blockInv_reset, buffersWf_reset⟩

/-- Settles O51: one lemma per case of a step. -/
theorem everyStepKeepsTheInvariant : Obligations.EveryStepKeepsTheInvariant := by
  intro s t h hwf hstep
  rcases step_cases hstep with rfl | ⟨rest, _, rfl⟩ | ⟨rest, _, rfl⟩ | ⟨_, _, u, hu, _, hrun⟩ | ⟨bytes, u, hu, rfl⟩ |
    ⟨_, _, u, hu, _, hrun⟩ | ⟨bytes, u, hu, rfl⟩
  · exact h
  · exact blockInv_reset.of_sameFrames rfl
  · exact rxTimeout_blockInv (h.of_sameFrames rfl)
  · exact exec_blockInv (hu.blockInv h) (hu.buffersWf hwf) hrun
  · exact malformed_blockInv (hu.blockInv h) bytes
  · exact exec_blockInv (hu.blockInv h) (hu.buffersWf hwf) hrun
  · exact receive_blockInv (hu.blockInv h) bytes

end Sys2Proof.Machine
end

section
/-! Buffer bytes at or beyond the counts are never read (`10_state.md` R12, R13, R14, R26): every operation, instruction and step
takes two states that agree on everything else to two such states. -/
namespace Sys2Proof.Machine

/-- The state without its buffers' contents. -/
def view (s : State) : State := { s with txp := [], txf := [], rxb := [] }

/-! What two states of the same view share. -/

section
variable {s t : State} (h : SameView s t)
include h

theorem SameView.view_eq : view s = view t := h.rest
theorem SameView.txPlen_eq : s.txPlen = t.txPlen := (congrArg State.txPlen h.view_eq :)
theorem SameView.txFlen_eq : s.txFlen = t.txFlen := (congrArg State.txFlen h.view_eq :)
theorem SameView.rxCount_eq : s.rxCount = t.rxCount := (congrArg State.rxCount h.view_eq :)
theorem SameView.rdPhase_eq : s.rdPhase = t.rdPhase := (congrArg State.rdPhase h.view_eq :)
theorem SameView.resp_eq : s.resp = t.resp := (congrArg State.resp h.view_eq :)
theorem SameView.held_eq : s.held = t.held := (congrArg State.held h.view_eq :)
theorem SameView.chan_eq : s.chan = t.chan := (congrArg State.chan h.view_eq :)
theorem SameView.inputs_eq : s.inputs = t.inputs := (congrArg State.inputs h.view_eq :)

theorem SameView.payload_eq : payload s = payload t := by
  rw [payload, payload, ← h.txPlen_eq]
  exact memSlice_congr fun j hj => by rw [Nat.zero_add, h.txp j hj]

theorem SameView.received_eq : received s = received t := by
  rw [received, received, ← h.rxCount_eq]
  exact memSlice_congr fun j hj => by rw [Nat.zero_add, h.rxb j hj]

theorem SameView.room_eq : room s = room t := by rw [room, room, h.rxCount_eq]

/-- What an operation makes of the view, it makes of both states. -/
theorem SameView.view_map {f : State → State} (hf : ∀ u, view (f u) = view (f (view u))) : view (f s) = view (f t) := by
  rw [hf s, hf t]
  exact congrArg (fun u => view (f u)) h.view_eq

end

/-! Operations that do not look into the buffers. -/

/-- The operation leaves the buffers alone, does not look at them, and lets no count grow. -/
structure Blind (f : State → State) : Prop where
  view : ∀ u, view (f u) = view (f (view u))
  txp : ∀ u, (f u).txp = u.txp
  txf : ∀ u, (f u).txf = u.txf
  rxb : ∀ u, (f u).rxb = u.rxb
  txPlen : ∀ u, (f u).txPlen ≤ u.txPlen
  txFlen : ∀ u, (f u).txFlen ≤ u.txFlen
  rxCount : ∀ u, (f u).rxCount ≤ u.rxCount

theorem Blind.sameView {f : State → State} (hf : Blind f) {s t : State} (h : SameView s t) : SameView (f s) (f t) where
  txp a ha := by rw [hf.txp, hf.txp, h.txp a (ha.trans_le (hf.txPlen s))]
  txf a ha := by rw [hf.txf, hf.txf, h.txf a (ha.trans_le (hf.txFlen s))]
  rxb a ha := by rw [hf.rxb, hf.rxb, h.rxb a (ha.trans_le (hf.rxCount s))]
  rest := h.view_map hf.view

/-- An operation that keeps the counts too; for an update of other fields both conditions hold by definition. -/
theorem Blind.of_keeps {f : State → State}
    (hview : ∀ u, Machine.view (f u) = Machine.view (f (Machine.view u)) := by exact fun _ => rfl)
    (hkeep : ∀ u, (f u).txp = u.txp ∧ (f u).txf = u.txf ∧ (f u).rxb = u.rxb ∧ (f u).txPlen = u.txPlen ∧
      (f u).txFlen = u.txFlen ∧ (f u).rxCount = u.rxCount := by exact fun _ => ⟨rfl, rfl, rfl, rfl, rfl, rfl⟩) : Blind f := by
  refine ⟨hview, fun u => ?_, fun u => ?_, fun u => ?_, fun u => ?_, fun u => ?_, fun u => ?_⟩ <;>
    obtain ⟨htxp, htxf, hrxb, hplen, hflen, hcount⟩ := hkeep u
  · exact htxp
  · exact htxf
  · exact hrxb
  · exact hplen.le
  · exact hflen.le
  · exact hcount.le

theorem blind_takeInput (rest : List Input) : Blind fun u => { u with inputs := rest } := .of_keeps
theorem blind_takeHeld (rest : List (List Byte)) : Blind fun u => { u with held := rest } := .of_keeps
theorem blind_takeChan (rest : List (List Byte)) : Blind fun u => { u with chan := rest } := .of_keeps
theorem blind_hold (bs : List Byte) : Blind (hold bs) := .of_keeps
theorem blind_refuse : Blind refuse := .of_keeps
theorem blind_crcClr : Blind fun u => silent { u with crc := Config.crcInit } := .of_keeps
theorem blind_crcUpd (b : Byte) : Blind fun u => silent { u with crc := crcUpdate u.crc b } := .of_keeps
theorem blind_overflow : Blind fun u => silent (setTxOvf u) := .of_keeps
theorem blind_readComplete : Blind readComplete := .of_keeps
theorem blind_answerOperand (v : Option Word) : Blind (answerOperand v) := by
  cases v <;> exact .of_keeps
theorem blind_storeDecoded (r : Option Frame) : Blind (storeDecoded r) := by
  cases r <;> exact .of_keeps
theorem blind_putBack (bs : List Byte) : Blind (putBack bs) := by
  refine .of_keeps (fun u => ?_) fun u => ⟨by simp, by simp, by simp, by simp, by simp, by simp⟩
  unfold putBack
  split <;> rfl
theorem blind_stayInChannel (bs : List Byte) : Blind (stayInChannel bs) := by
  refine .of_keeps (fun u => ?_) fun u => ⟨by simp, by simp, by simp, by simp, by simp, by simp⟩
  unfold stayInChannel
  split <;> rfl

/-! Operations that empty a buffer. -/

theorem blind_txpClr : Blind fun u => silent { u with txPlen := 0 } :=
  ⟨fun _ => rfl, fun _ => rfl, fun _ => rfl, fun _ => rfl, fun _ => Fin.zero_le _, fun _ => le_rfl, fun _ => le_rfl⟩
theorem blind_readAbort : Blind readAbort :=
  ⟨fun _ => rfl, fun _ => rfl, fun _ => rfl, fun _ => rfl, fun _ => le_rfl, fun _ => le_rfl, fun _ => Fin.zero_le _⟩
theorem blind_beginRead : Blind beginRead :=
  ⟨fun _ => rfl, fun _ => rfl, fun _ => rfl, fun _ => rfl, fun _ => le_rfl, fun _ => le_rfl, fun _ => Fin.zero_le _⟩

theorem resetBlock_sameView {s t : State} (h : SameView s t) : SameView (resetBlock s) (resetBlock t) :=
  ⟨fun _ _ => rfl, fun _ _ => rfl, fun _ _ => rfl, h.view_map (f := resetBlock) fun _ => rfl⟩

theorem rxTimeout_sameView {s t : State} (h : SameView s t) : SameView (rxTimeout s) (rxTimeout t) := by
  by_cases hidle : s.rdPhase = .idle
  · rwa [rxTimeout_idle hidle, rxTimeout_idle (h.rdPhase_eq ▸ hidle)]
  · rw [rxTimeout_busy hidle, rxTimeout_busy (h.rdPhase_eq ▸ hidle)]
    exact blind_readAbort.sameView h

/-- The port runs the command in both states or holds it in both. -/
theorem atPort_sameView {run run' : State → State} {s t : State} (h : SameView s t) (hrun : SameView (run s) (run' t))
    (bytes : List Byte) : SameView (atPort bytes run s) (atPort bytes run' t) := by
  by_cases hidle : s.rdPhase = .idle
  · rwa [atPort_idle hidle, atPort_idle (h.rdPhase_eq ▸ hidle)]
  · rw [atPort_busy hidle, atPort_busy (h.rdPhase_eq ▸ hidle)]
    exact (blind_hold bytes).sameView h

/-! Reads below the counts. -/

theorem SameView.regValue_eq {s t : State} (h : SameView s t) (n : Byte) : regValue n s = regValue n t :=
  (congrArg (regValue n) h.view_eq :)

/-- An indexed read finds the same byte in both buffers, or is refused in both. -/
theorem bufferByte_congr {m m' : Memory} {count : Nat} (h : ∀ a, a < count → memRead m a = memRead m' a) (i : Word) :
    bufferByte m count i = bufferByte m' count i := by
  unfold bufferByte
  split
  · rw [h _ ‹_›]
  · rfl

theorem SameView.decodeAndVerify_eq {s t : State} (h : SameView s t) :
    decodeAndVerify (received s) s.rxCount.val = decodeAndVerify (received t) t.rxCount.val := by
  rw [h.received_eq, h.rxCount_eq]

/-! Writes up to the counts. -/

/-- Buffers that agree below `n` agree below the end of a run of bytes written into both at `n`. -/
theorem memWriteBytes_agree {m m' : Memory} (hm : Memory.wf m = true) (hm' : Memory.wf m' = true) {n : Nat}
    (h : ∀ a, a < n → memRead m a = memRead m' a) (bs : List Byte) {a : Nat} (ha : a < n + bs.length) :
    memRead (memWriteBytes m n bs) a = memRead (memWriteBytes m' n bs) a := by
  by_cases hlt : a < n
  · rw [memRead_memWriteBytes_outside m n bs (.inl hlt), memRead_memWriteBytes_outside m' n bs (.inl hlt), h a hlt]
  · obtain ⟨j, rfl⟩ := Nat.exists_eq_add_of_le (Nat.not_lt.mp hlt)
    have hj : j < bs.length := by omega
    rw [memRead_memWriteBytes_inside hm n bs hj, memRead_memWriteBytes_inside hm' n bs hj]

theorem pushByte_full (b : Byte) {s : State} (h : ¬ s.txPlen.val < Config.maxp) : pushByte b s = silent (setTxOvf s) :=
  dif_neg h

theorem pushByte_view (b : Byte) (u : State) : view (pushByte b u) = view (pushByte b (view u)) := by
  by_cases hroom : u.txPlen.val < Config.maxp
  · rw [pushByte_room b hroom, pushByte_room (s := view u) b hroom]
    rfl
  · rw [pushByte_full b hroom, pushByte_full (s := view u) b hroom]
    rfl

section
variable {s t : State} (h : SameView s t) (hs : BuffersWf s) (ht : BuffersWf t)
include h hs ht

theorem pushByte_sameView (b : Byte) : SameView (pushByte b s) (pushByte b t) := by
  by_cases hroom : s.txPlen.val < Config.maxp
  · have hrest := h.view_map (pushByte_view b)
    rw [pushByte_room b hroom, pushByte_room b (h.txPlen_eq ▸ hroom)] at hrest ⊢
    refine ⟨fun a ha => ?_, h.txf, h.rxb, hrest⟩
    have hwrite := memWriteBytes_agree hs.txp.1 ht.txp.1 h.txp [b] ha
    rw [h.txPlen_eq] at hwrite
    simpa [memWriteBytes, h.txPlen_eq] using hwrite
  · rw [pushByte_full b hroom, pushByte_full b (h.txPlen_eq ▸ hroom)]
    exact blind_overflow.sameView h

/-- A stored frame covers everything below the new count. -/
theorem storeFrame_sameView (kind : Byte) (seq total : Word) {p p' : List Byte} (hpp : p = p') (hp : p.length ≤ Config.maxp)
    (hp' : p'.length ≤ Config.maxp) : SameView (storeFrame kind seq total p hp s) (storeFrame kind seq total p' hp' t) := by
  subst hpp
  refine ⟨h.txp, fun a ha => ?_, h.rxb, h.view_map (f := storeFrame kind seq total p hp) fun _ => rfl⟩
  exact memWriteBytes_agree hs.txf.1 ht.txf.1 (fun _ h0 => absurd h0 (Nat.not_lt_zero _)) _ (by rwa [Nat.zero_add])

theorem appendBytes_sameView (bs : List Byte) : SameView (appendBytes bs s) (appendBytes bs t) := by
  refine ⟨h.txp, h.txf, fun a ha => ?_, h.view_map (f := appendBytes bs) fun _ => rfl⟩
  rw [appendBytes_rxb, appendBytes_rxb, ← h.room_eq, ← h.rxCount_eq]
  exact memWriteBytes_agree hs.rxb.1 ht.rxb.1 h.rxb _ ha

end

/-! The reader. -/

theorem blind_completionTest : Blind completionTest := by
  refine .of_keeps (fun u => ?_) fun u => ?_
  · by_cases hmet : u.rdPhase = .pay ∧ u.rxNeed.val ≤ u.rxCount.val
    · rw [show completionTest u = readComplete u from if_pos hmet,
        show completionTest (view u) = readComplete (view u) from if_pos hmet]
      rfl
    · rw [show completionTest u = silent u from if_neg hmet, show completionTest (view u) = silent (view u) from if_neg hmet]
      rfl
  · rcases completionTest_cases u with ⟨_, _, e⟩ | ⟨_, e⟩ <;> rw [e] <;> exact ⟨rfl, rfl, rfl, rfl, rfl, rfl⟩

/-- The update of `awaitPayload`, with what is needed given. -/
def awaitBytes (n : Fin (Config.rxcap + 1)) (s : State) : State := { s with rxNeed := n, rdPhase := .pay }

theorem blind_awaitBytes (n : Fin (Config.rxcap + 1)) : Blind (awaitBytes n) := .of_keeps

theorem awaitPayload_eq (s : State) (h : announced s ≤ Config.rxcap) :
    awaitPayload s h = awaitBytes ⟨announced s, Nat.lt_succ_of_le h⟩ s := rfl

/-- The header's inspection reads the first nine bytes, which are accumulated. -/
theorem inspectHeader_sameView {s t : State} (h : SameView s t) (hcount : 9 ≤ s.rxCount.val) :
    SameView (inspectHeader s) (inspectHeader t) := by
  have hkind : memRead s.rxb 2 = memRead t.rxb 2 := h.rxb 2 (by omega)
  have hann : announced s = announced t := by
    rw [announced, announced, memField16, memField16, h.rxb 7 (by omega), h.rxb 8 (by omega)]
  rcases inspectHeader_cases s with ⟨hother, e⟩ | ⟨hdata, hbig, e⟩ | ⟨hdata, hfit, e⟩ <;> rw [e]
  · rw [inspectHeader, if_neg (hkind ▸ hother)]
    exact blind_readComplete.sameView h
  · rw [inspectHeader, if_pos (hkind ▸ hdata), dif_neg (Nat.not_le.mpr (hann ▸ hbig))]
    exact blind_readAbort.sameView h
  · rw [inspectHeader, if_pos (hkind ▸ hdata), dif_pos (hann ▸ hfit), awaitPayload_eq, awaitPayload_eq]
    simp only [hann]
    exact blind_completionTest.sameView ((blind_awaitBytes _).sameView h)

theorem afterAppend_sameView {s t : State} (h : SameView s t) : SameView (afterAppend s) (afterAppend t) := by
  rw [afterAppend, afterAppend, ← h.rdPhase_eq, ← h.rxCount_eq]
  split
  · exact inspectHeader_sameView h (And.right ‹_›)
  · exact blind_completionTest.sameView h

theorem receive_sameView {s t : State} (h : SameView s t) (hs : BuffersWf s) (ht : BuffersWf t) (bs : List Byte) :
    SameView (receive bs s) (receive bs t) := by
  have hput := (blind_putBack (bs.drop (room s))).sameView h
  have hwf {u : State} (hu : BuffersWf u) : BuffersWf (putBack (bs.drop (room s)) u) :=
    hu.of_eq (by simp) (by simp) (by simp)
  rw [receive, receive, ← h.rdPhase_eq, ← h.room_eq]
  split
  · exact (blind_stayInChannel bs).sameView h
  · split
    · exact blind_readAbort.sameView hput
    · exact afterAppend_sameView (appendBytes_sameView hput (hwf hs) (hwf ht) bs)

/-! Instructions and steps. -/

theorem malformed_sameView {s t : State} (h : SameView s t) (bytes : List Byte) :
    SameView (malformed bytes s) (malformed bytes t) := atPort_sameView h (blind_refuse.sameView h) bytes

theorem exec_sameView {i : Instr} {s t s' t' : State} (h : SameView s t) (hs : BuffersWf s) (ht : BuffersWf t)
    (hrun : exec i s = .next s') (hrun' : exec i t = .next t') : SameView s' t' := by
  have stores (kind : Byte) (seq total : Word) :=
    storeFrame_sameView h hs ht kind seq total (p := []) rfl (by decide) (by decide)
  cases i with
  | dataSend | ack | nack | err => cases hrun; cases hrun'; exact receive_sameView h hs ht _
  | rdreg n =>
    cases hrun; cases hrun'
    refine atPort_sameView h ?_ _
    rw [h.regValue_eq]
    exact (blind_answerOperand _).sameView h
  | txfRd k =>
    cases hrun; cases hrun'
    refine atPort_sameView h ?_ _
    rw [← h.txFlen_eq, bufferByte_congr h.txf]
    exact (blind_answerOperand _).sameView h
  | rxbRd k =>
    cases hrun; cases hrun'
    refine atPort_sameView h ?_ _
    rw [← h.rxCount_eq, bufferByte_congr h.rxb]
    exact (blind_answerOperand _).sameView h
  | decode =>
    cases hrun; cases hrun'
    refine atPort_sameView h ?_ _
    rw [h.decodeAndVerify_eq]
    exact (blind_storeDecoded _).sameView h
  | txpPush b => cases hrun; cases hrun'; exact atPort_sameView h (pushByte_sameView h hs ht b) _
  | encData q w =>
    cases hrun; cases hrun'
    exact atPort_sameView h (storeFrame_sameView h hs ht Config.kData q w h.payload_eq _ _) _
  | encAck q w => cases hrun; cases hrun'; exact atPort_sameView h (stores Config.kAck q w) _
  | encNack q w => cases hrun; cases hrun'; exact atPort_sameView h (stores Config.kNack q w) _
  | encErr => cases hrun; cases hrun'; exact atPort_sameView h (stores Config.kErr 0 0) _
  | crcClr => cases hrun; cases hrun'; exact atPort_sameView h (blind_crcClr.sameView h) _
  | crcUpd b => cases hrun; cases hrun'; exact atPort_sameView h ((blind_crcUpd b).sameView h) _
  | txpClr => cases hrun; cases hrun'; exact atPort_sameView h (blind_txpClr.sameView h) _
  | readFrame => cases hrun; cases hrun'; exact atPort_sameView h (blind_beginRead.sameView h) _

/-- The two turns are of the same sort and act on states of the same view. -/
inductive SameTurn : Turn → Turn → Prop where
  | wait : SameTurn .wait .wait
  | event {s t : State} (h : SameView s t) : SameTurn (.event s) (.event t)
  | command (bytes : List Byte) {s t : State} (h : SameView s t) (hs : BuffersWf s) (ht : BuffersWf t) :
    SameTurn (.command bytes s) (.command bytes t)
  | burst (bytes : List Byte) {s t : State} (h : SameView s t) (hs : BuffersWf s) (ht : BuffersWf t) :
    SameTurn (.burst bytes s) (.burst bytes t)

theorem nextTurn_interrupted {s : State} (h : ¬ Uninterrupted s) : nextTurn s = nextInput s := by
  unfold nextTurn
  split
  · rfl
  · rfl
  · rename_i hreset htimeout
    exact absurd ⟨hreset, htimeout⟩ h

section
variable {s t : State} (h : SameView s t) (hs : BuffersWf s) (ht : BuffersWf t)
include h hs ht

theorem nextInput_sameTurn : SameTurn (nextInput s) (nextInput t) := by
  have htake (rest : List Input) := (blind_takeInput rest).sameView h
  cases hin : s.inputs with
  | nil =>
    simp only [nextInput, ← h.inputs_eq, hin]
    exact .wait
  | cons i rest =>
    cases i <;> simp only [nextInput, ← h.inputs_eq, hin]
    case command bytes => exact .command bytes (htake rest) (hs.of_eq rfl rfl rfl) (ht.of_eq rfl rfl rfl)
    case rxBurst bytes => exact .burst bytes (htake rest) (hs.of_eq rfl rfl rfl) (ht.of_eq rfl rfl rfl)
    case rxTimeout => exact .event (rxTimeout_sameView (htake rest))
    case reset => exact .event (resetBlock_sameView (htake rest))

theorem idleTurn_sameTurn : SameTurn (idleTurn s) (idleTurn t) := by
  cases hheld : s.held with
  | nil =>
    simp only [idleTurn, ← h.held_eq, hheld]
    exact nextInput_sameTurn h hs ht
  | cons bytes rest =>
    simp only [idleTurn, ← h.held_eq, hheld]
    exact .command bytes ((blind_takeHeld rest).sameView h) (hs.of_eq rfl rfl rfl) (ht.of_eq rfl rfl rfl)

theorem busyTurn_sameTurn : SameTurn (busyTurn s) (busyTurn t) := by
  cases hchan : s.chan with
  | nil =>
    simp only [busyTurn, ← h.chan_eq, hchan]
    exact nextInput_sameTurn h hs ht
  | cons bytes rest =>
    simp only [busyTurn, ← h.chan_eq, hchan]
    exact .burst bytes ((blind_takeChan rest).sameView h) (hs.of_eq rfl rfl rfl) (ht.of_eq rfl rfl rfl)

theorem nextTurn_sameTurn : SameTurn (nextTurn s) (nextTurn t) := by
  have hun : Uninterrupted s ↔ Uninterrupted t := by rw [Uninterrupted, Uninterrupted, h.inputs_eq]
  by_cases hus : Uninterrupted s
  · rw [nextTurn_uninterrupted hus, nextTurn_uninterrupted (hun.mp hus), ← h.rdPhase_eq]
    split
    · exact idleTurn_sameTurn h hs ht
    · exact busyTurn_sameTurn h hs ht
  · rw [nextTurn_interrupted hus, nextTurn_interrupted (mt hun.mpr hus)]
    exact nextInput_sameTurn h hs ht

end

theorem step_sameView {s t s' t' : State} (h : SameView s t) (hs : BuffersWf s) (ht : BuffersWf t)
    (hstep : step s = .next s') (hstep' : step t = .next t') : SameView s' t' := by
  have hturn := nextTurn_sameTurn h hs ht
  unfold step at hstep hstep'
  generalize nextTurn s = x at hturn hstep
  generalize nextTurn t = y at hturn hstep'
  cases hturn with
  | wait => cases hstep; cases hstep'; exact h
  | event hu => cases hstep; cases hstep'; exact hu
  | command bytes hu hsu htu =>
    simp only at hstep hstep'
    cases hd : decodeCommand bytes with
    | ok i =>
      simp only [hd] at hstep hstep'
      exact exec_sameView hu hsu htu hstep hstep'
    | error e =>
      simp only [hd] at hstep hstep'
      cases hstep; cases hstep'
      exact malformed_sameView hu bytes
  | burst bytes hu hsu htu =>
    simp only at hstep hstep'
    cases hd : decodeFrame bytes with
    | ok i =>
      simp only [hd] at hstep hstep'
      exact exec_sameView hu hsu htu hstep hstep'
    | error e =>
      simp only [hd] at hstep hstep'
      cases hstep; cases hstep'
      exact receive_sameView hu hsu htu bytes

/-- Settles O52: `step_sameView`; the response is part of the view. -/
theorem deadBytesAreUnobservable : Obligations.DeadBytesAreUnobservable := by
  intro s t s' t' h hs ht hstep hstep'
  have hview := step_sameView h hs ht hstep hstep'
  exact ⟨hview, hview.resp_eq⟩

end Sys2Proof.Machine
end

section
/-! The host agent (`45_host_transfer_engine.md`): the sender's chunks (R172), and the receiver's loop (R179, R180, R183). -/
namespace Sys2Proof.Machine

/-! Chunks. -/

/-- The first `k` chunks are the first `20 k` bytes. -/
theorem flatMap_chunk (buffer : List Byte) (k : Nat) : (List.range k).flatMap (chunk buffer) = buffer.take (k * 20) := by
  induction k with
  | zero => simp
  | succ k ih =>
    rw [List.range_succ, List.flatMap_append, ih, List.flatMap_singleton, Nat.succ_mul, List.take_add]
    rfl

theorem chunk_length (buffer : List Byte) (i : Nat) : (chunk buffer i).length = min 20 (buffer.length - i * 20) := by
  simp [chunk, Config.maxp]

/-- The number of chunks is the least that holds the buffer (R172). -/
theorem totalChunks_bounds {n : Nat} (h : 0 < n) : (totalChunks n - 1) * 20 < n ∧ n ≤ totalChunks n * 20 ∧ 0 < totalChunks n := by
  simp only [totalChunks, Config.maxp]
  omega

theorem take_totalChunks (buffer : List Byte) : buffer.take (totalChunks buffer.length * 20) = buffer := by
  apply List.take_of_length_le
  simp only [totalChunks, Config.maxp]
  omega

/-- Settles O53: the chunks are consecutive pieces of 20 bytes, of which the last may be shorter. -/
theorem chunksPartitionTheBuffer : Obligations.ChunksPartitionTheBuffer := by
  intro buffer hne
  obtain ⟨hlow, hhigh, hpos⟩ := totalChunks_bounds (List.length_pos_iff.mpr hne)
  refine ⟨by rw [flatMap_chunk, take_totalChunks], fun i hi => ?_, ?_⟩
  · rw [chunk_length]
    omega
  · rw [chunk_length]
    split <;> omega

/-! The receiver's turn. -/

theorem receiverDone_iff {x : Receiver} : receiverDone x = true ↔ ∃ t : Word, x.total = some t ∧ x.expected = t.toNat := by
  unfold receiverDone
  cases x.total <;> simp

theorem receiverReply_done (r : Option Frame) {x : Receiver} (h : receiverDone x = true) : receiverReply r x = (x, none) :=
  if_pos h

theorem receiverReply_open (r : Option Frame) {x : Receiver} (h : receiverDone x = false) :
    receiverReply r x = ((receiverPass r x).1, some (receiverPass r x).2) := if_neg (by simp [h])

theorem receiverDone_known {x : Receiver} {t : Word} (ht : x.total = some t) (hne : x.expected ≠ t.toNat) :
    receiverDone x = false := by
  simp [receiverDone, ht, hne]

/-- The first valid frame fixes the total as if it had been known (R179 step 3). -/
theorem receiverPass_first (f : Frame) {x : Receiver} (h : x.total = none) :
    receiverPass (some f) x = receiverPass (some f) { x with total := some f.total } := by
  simp [receiverPass, fixTotal, h]

section
variable {x : Receiver} {f : Frame} {t : Word} (ht : x.total = some t)
include ht

theorem receiverPass_known : receiverPass (some f) x = receiverFrame f x := by simp [receiverPass, fixTotal, ht]

theorem nackFrame_known : nackFrame x = frameBytes 0x03 (BitVec.ofNat 16 x.expected) t [] := by
  simp [nackFrame, totalOnWire, ht, Config.kNack]

theorem ackFrame_known (q : Word) : ackFrame q x = frameBytes 0x02 q t [] := by
  simp [ackFrame, totalOnWire, ht, Config.kAck]

/-- A gap (R179 step 5). -/
theorem receiverPass_above (h : x.expected < f.sequence.toNat) :
    receiverPass (some f) x = (x, frameBytes 0x03 (BitVec.ofNat 16 x.expected) t []) := by
  rw [receiverPass_known ht, receiverFrame, if_pos h, nackFrame_known ht]

/-- A duplicate (R179 step 7). -/
theorem receiverPass_below (h : f.sequence.toNat < x.expected) :
    receiverPass (some f) x = (x, frameBytes 0x02 f.sequence t []) := by
  rw [receiverPass_known ht, receiverFrame, if_neg (by omega), if_neg (by omega), ackFrame_known ht]

/-- The frame in sequence (R179 step 6). -/
theorem receiverPass_expected (h : f.sequence.toNat = x.expected) : receiverPass (some f) x =
    ({ expected := x.expected + 1, total := some t, out := x.out ++ f.payload }, frameBytes 0x02 f.sequence t []) := by
  rw [receiverPass_known ht, receiverFrame, if_neg (by omega), if_pos h, ackFrame_known ht, ← ht]

end

/-! The receiver's loop. -/

/-- A session that is done reads nothing and returns its buffer (R180). -/
theorem receiverLoop_done (reads : List (Option Frame)) {x : Receiver} (h : receiverDone x = true) :
    receiverLoop reads x = ([], some x.out) := by
  cases reads with
  | nil => simp [receiverLoop, receiverResult, h]
  | cons r rest => simp [receiverLoop, receiverReply_done r h, receiverResult, h]

/-- A session that is not done answers a read and goes on. -/
theorem receiverLoop_open (r : Option Frame) (rest : List (Option Frame)) {x : Receiver} (h : receiverDone x = false) :
    receiverLoop (r :: rest) x =
      ((receiverPass r x).2 :: (receiverLoop rest (receiverPass r x).1).1, (receiverLoop rest (receiverPass r x).1).2) := by
  rw [receiverLoop, receiverReply_open r h]

/-- Settles O55: the turn's cases, and the loop of a session that is done. -/
theorem receiverAppendsInOrderOnly : Obligations.ReceiverAppendsInOrderOnly := by
  refine ⟨fun x r => rfl, fun x _ => ⟨fun hnone => ?_, fun t ht hne => ?_⟩, fun x f => receiverPass_first f,
    fun x f t ht => ⟨receiverPass_above ht, receiverPass_below ht, receiverPass_expected ht⟩, fun x => receiverDone_iff,
    fun x reads => receiverLoop_done reads⟩
  · rw [receiverReply_open none (by simp [receiverDone, hnone]), receiverPass, nackFrame, hnone]
    rfl
  · rw [receiverReply_open none (receiverDone_known ht hne), receiverPass, nackFrame_known ht]

/-- The session after the first `k` chunks of a buffer. -/
def receivedChunks (buffer : List Byte) (k : Nat) : Receiver where
  expected := k
  total := some (BitVec.ofNat 16 (totalChunks buffer.length))
  out := buffer.take (k * 20)

section
variable {buffer : List Byte} (hmax : totalChunks buffer.length ≤ 65535)
include hmax

theorem receiverDone_receivedChunks {k : Nat} : receiverDone (receivedChunks buffer k) = decide (k = totalChunks buffer.length) := by
  have htotal : (BitVec.ofNat 16 (totalChunks buffer.length)).toNat = totalChunks buffer.length :=
    index_toNat (Nat.lt_succ_of_le hmax) le_rfl
  rw [receiverDone, receivedChunks]
  simp only [htotal]
  rfl

/-- The chunk in sequence is appended and acknowledged. -/
theorem receiverPass_chunk {k : Nat} (hk : k < totalChunks buffer.length) :
    receiverPass (some (chunkFrame buffer k)) (receivedChunks buffer k) = (receivedChunks buffer (k + 1),
      frameBytes 0x02 (BitVec.ofNat 16 k) (BitVec.ofNat 16 (totalChunks buffer.length)) []) := by
  have hseq : (BitVec.ofNat 16 k).toNat = k := index_toNat hk (by omega)
  rw [receiverPass_expected rfl hseq, receivedChunks, receivedChunks, Nat.succ_mul, List.take_add]
  rfl

/-- From the first `k` chunks on, the others are acknowledged one by one and the buffer is returned. -/
theorem receiverLoop_chunks (later : List (Option Frame)) (m : Nat) : ∀ {k : Nat}, k + m = totalChunks buffer.length →
    receiverLoop ((List.range' k m).map (fun i => some (chunkFrame buffer i)) ++ later) (receivedChunks buffer k) =
      ((List.range' k m).map
        (fun i => frameBytes 0x02 (BitVec.ofNat 16 i) (BitVec.ofNat 16 (totalChunks buffer.length)) []), some buffer) := by
  induction m with
  | zero =>
    intro k hk
    obtain rfl : k = totalChunks buffer.length := hk
    have hdone : receiverDone (receivedChunks buffer (totalChunks buffer.length)) = true := by
      rw [receiverDone_receivedChunks hmax, decide_eq_true rfl]
    rw [List.range'_zero, List.map_nil, List.nil_append, receiverLoop_done later hdone, receivedChunks, take_totalChunks,
      List.map_nil]
  | succ m ih =>
    intro k hk
    have hopen : receiverDone (receivedChunks buffer k) = false := by
      rw [receiverDone_receivedChunks hmax]
      exact decide_eq_false (by omega)
    rw [List.range'_succ, List.map_cons, List.cons_append, receiverLoop_open _ _ hopen, receiverPass_chunk hmax (by omega),
      ih (by omega), List.map_cons]

end

/-- Before the first frame the total is not known; that frame tells it. -/
theorem receiverLoop_start {buffer : List Byte} (hne : buffer ≠ []) (hmax : totalChunks buffer.length ≤ 65535)
    (rest : List (Option Frame)) : receiverLoop (some (chunkFrame buffer 0) :: rest) receiverStart =
      receiverLoop (some (chunkFrame buffer 0) :: rest) (receivedChunks buffer 0) := by
  obtain ⟨_, _, hpos⟩ := totalChunks_bounds (List.length_pos_iff.mpr hne)
  have hopen : receiverDone (receivedChunks buffer 0) = false := by
    rw [receiverDone_receivedChunks hmax]
    exact decide_eq_false (by omega)
  rw [receiverLoop_open _ _ rfl, receiverLoop_open _ _ hopen, receiverPass_first _ rfl]
  rfl

/-- Settles O56: the first frame tells the total, and then every chunk is the one expected. -/
theorem receiverReturnsTheBuffer : Obligations.ReceiverReturnsTheBuffer := by
  intro buffer later hne hmax
  obtain ⟨_, _, hpos⟩ := totalChunks_bounds (List.length_pos_iff.mpr hne)
  have hloop := receiverLoop_chunks hmax later (totalChunks buffer.length) (k := 0) (Nat.zero_add _)
  obtain ⟨m, hm⟩ := Nat.exists_eq_succ_of_ne_zero hpos.ne'
  rw [receiveTransfer, List.range_eq_range', ← hloop, hm, List.range'_succ, List.map_cons, List.cons_append,
    receiverLoop_start hne hmax]

end Sys2Proof.Machine
end

section
/-! The pseudo-operations (`30_encoding.md` R77): the commands each one expands to, and what the host makes of their responses. -/
namespace Sys2Proof.Machine

/-! The encoder's. -/

theorem runCommands_singleton (i : Instr) (s : State) : runCommands [i] s = exec i s := by
  obtain ⟨t, ht⟩ := exec_isNext i s
  rw [runCommands, ht, andThen_next, runCommands]

/-- Pushes that there is room for write the bytes one after another (R102). -/
theorem runCommands_pushes (p : List Byte) : ∀ {s : State}, s.rdPhase = .idle → s.resp = none →
    s.txPlen.val + p.length ≤ Config.maxp → ∃ n : Fin (Config.maxp + 1), n.val = s.txPlen.val + p.length ∧
      runCommands (p.map .txpPush) s = .next { s with txp := memWriteBytes s.txp s.txPlen.val p, txPlen := n } := by
  induction p with
  | nil => exact fun _ _ _ => ⟨_, rfl, rfl⟩
  | cons b p ih =>
    intro s hidle hresp hroom
    rw [List.length_cons] at hroom
    have hfree : s.txPlen.val < Config.maxp := by omega
    obtain ⟨n, hn, hrun⟩ := ih (s := { s with txp := memWrite s.txp s.txPlen.val b, txPlen := ⟨s.txPlen.val + 1, by omega⟩ })
      hidle hresp (by show s.txPlen.val + 1 + p.length ≤ Config.maxp; omega)
    refine ⟨n, by rw [hn, List.length_cons]; show s.txPlen.val + 1 + p.length = _; omega, ?_⟩
    rw [List.map_cons, runCommands, exec_txpPush_idle b hidle, pushByte_room b hfree, andThen_next, ← hresp]
    exact hrun

/-- Settles O31: after TXP_CLR the pushed bytes are the whole payload, which ENC_DATA makes a frame of. -/
theorem encodeDataProgramBuildsTheFrame : Obligations.EncodeDataProgramBuildsTheFrame := by
  intro p q w s hidle hwf hp
  obtain ⟨n, hn, hpushes⟩ := runCommands_pushes p (s := { s with txPlen := 0, resp := none }) hidle rfl
    (by show 0 + p.length ≤ Config.maxp; rwa [Nat.zero_add])
  obtain rfl : n = ⟨p.length, Nat.lt_succ_of_le hp⟩ := Fin.ext (hn.trans (Nat.zero_add _))
  set u : State := { s with txp := memWriteBytes s.txp 0 p, txPlen := ⟨p.length, Nat.lt_succ_of_le hp⟩, resp := none } with hu
  have hpushed : runCommands (p.map .txpPush) { s with txPlen := 0, resp := none } = .next u := hpushes
  have hpayload : payload u = p := memSlice_memWriteBytes hwf.txp.1 0 p
  have hrun : runCommands (encodeDataProgram p q w) s = exec (.encData q w) u := by
    rw [encodeDataProgram, runCommands_append, runCommands, exec_txpClr_idle hidle, andThen_next, hpushed, andThen_next,
      runCommands_singleton]
  obtain ⟨t, ht, hlen, hslice, _, hrest⟩ := exec_stores_frame (exec_encData_idle q w (s := u) hidle) hwf.txf.1
  rw [← hlen, hpayload] at hslice
  have htxp : t.txp = u.txp := (congrArg State.txp hrest :)
  have htxPlen : t.txPlen = u.txPlen := (congrArg State.txPlen hrest :)
  refine ⟨t, hrun.trans ht, hslice, ?_, ?_⟩
  · rw [htxp, htxPlen]
    exact hpayload
  · exact (congrArg (fun v : State => { v with txp := s.txp, txPlen := s.txPlen }) hrest :)

/-- `frame()` after a control frame's command hands out the frame (R77). -/
theorem controlCall_eq {i : Instr} {kind : Byte} {q w : Word} {s : State} (hidle : s.rdPhase = .idle)
    (hwf : Memory.wf s.txf = true) (hrun : exec i s = .next (storeControl kind q w s)) :
    ∃ t, andThen (exec i s) frameCall = .next (frameBytes kind q w [], t) ∧
      { t with txf := s.txf, txFlen := s.txFlen, resp := s.resp } = s := by
  obtain ⟨t, ht, hlen, hslice, _, hrest⟩ := exec_stores_frame hrun hwf
  have hphase : t.rdPhase = s.rdPhase := (congrArg State.rdPhase hrest :)
  obtain ⟨r, hcall⟩ := frameCall_eq (hphase.trans hidle)
  rw [← hlen] at hslice
  exact ⟨{ t with resp := r }, by rw [ht, andThen_next, hcall, hslice],
    (congrArg (fun v : State => { v with resp := s.resp }) hrest :)⟩

/-- Settles O57: each program leaves the frame in `txf`, and `frame()` hands it out. -/
theorem encodeCallsReturnTheFrame : Obligations.EncodeCallsReturnTheFrame := by
  refine ⟨fun p q w s hidle hwf hp => ?_, fun q w s hidle hwf => ⟨controlCall_eq hidle hwf.txf.1 (exec_encAck_idle q w hidle),
    controlCall_eq hidle hwf.txf.1 (exec_encNack_idle q w hidle), controlCall_eq hidle hwf.txf.1 (exec_encErr_idle hidle)⟩⟩
  obtain ⟨t, ht, hslice, _, hrest⟩ := encodeDataProgramBuildsTheFrame p q w s hidle hwf hp
  have hphase : t.rdPhase = s.rdPhase := (congrArg State.rdPhase hrest :)
  obtain ⟨r, hcall⟩ := frameCall_eq (hphase.trans hidle)
  exact ⟨{ t with resp := r }, by rw [encodeDataCall, ht, andThen_next, hcall, hslice],
    (congrArg (fun v : State => { v with resp := s.resp }) hrest :)⟩

/-! The decoder's. -/

/-- The registers 5 to 8 and the payload's bytes are the frame they were decoded from (R22, R77). -/
theorem frameRecord_eq {s : State} {f : Frame} (hidle : s.rdPhase = .idle) (hkind : s.rxKind = f.kind)
    (hseq : s.rxSeq = f.sequence) (htotal : s.rxTotal = f.total) (hlen : s.rxLen = f.length)
    (hbytes : received s = frameBytes f.kind f.sequence f.total f.payload) (hpayload : f.payload.length = f.length.toNat) :
    ∃ r, frameRecord s = .next (f, { s with resp := r }) := by
  have reads (v : Option Word) {n : Byte} {w : Word} (hw : regValue n { s with resp := v } = some w) :=
    response_rdreg (s := { s with resp := v }) hidle hw
  have hcount : s.rxCount.val = 9 + f.payload.length := by rw [← received_length, hbytes, frameBytes_length]
  obtain ⟨r, hread⟩ := readBytes_rxbRd (a := 9) (n := f.payload.length) (s := { s with resp := some f.length }) hidle
    (by show 9 + f.payload.length ≤ s.rxCount.val; omega)
  rw [memSlice_payload hbytes] at hread
  refine ⟨r, ?_⟩
  rw [frameRecord, response_rdreg hidle (n := 5) (v := f.kind.setWidth 16) (by rw [← hkind]; rfl), andThen_next,
    reads _ (n := 6) (w := f.sequence) (by rw [← hseq]; rfl), andThen_next,
    reads _ (n := 7) (w := f.total) (by rw [← htotal]; rfl), andThen_next,
    reads _ (n := 8) (w := f.length) (by rw [← hlen]; rfl), andThen_next, Config.hdr, ← hpayload, hread, andThen_next,
    byte_of_response]

/-- Settles O58: DECODE stores the decoder's result, which the reads hand out. -/
theorem decodeCallReturnsTheFrame : Obligations.DecodeCallReturnsTheFrame := by
  intro s hidle
  rw [decodeCall, response, exec_decode_idle hidle, andThen_next, andThen_next]
  cases hd : decodeAndVerify (received s) s.rxCount.val with
  | none => exact ⟨_, rfl, rfl⟩
  | some f =>
    obtain ⟨hlen, hbytes⟩ := decodeAndVerify_received_iff.mp hd
    obtain ⟨r, hrecord⟩ := frameRecord_eq (s := storeDecoded (some f) s) hidle rfl rfl rfl rfl hbytes hlen
    have hone : ¬ ((storeDecoded (some f) s).resp.getD 0 = 0) := by simp [storeDecoded]
    exact ⟨{ storeDecoded (some f) s with resp := r }, by rw [if_neg hone, hrecord, andThen_next], rfl⟩

/-! The reader's. -/

theorem awaitRead_idle {s : State} (h : s.rdPhase = .idle) (n : Nat) : awaitRead n s = .next (s.resp, s) := by
  cases n with
  | zero => rw [awaitRead, if_pos h]
  | succ n => rw [awaitRead, if_pos h]

theorem awaitRead_busy {s : State} (h : s.rdPhase ≠ .idle) (n : Nat) :
    awaitRead (n + 1) s = andThen (step s) (awaitRead n) := by
  rw [awaitRead, if_neg h]

/-- What comes next is no part of what has been read. -/
theorem HasRead.takeInput {frame got : List Byte} {s : State} (h : HasRead frame got s) (rest : List Input) :
    HasRead frame got { s with inputs := rest } := ⟨h.bytes, h.wf, h.header, h.payload, h.whole⟩

/-- Awaiting the bursts that bring the rest of a frame ends with its length (R137 to R139). -/
theorem awaitRead_bursts {frame : List Byte} (hframe : Readable frame) (bursts : List (List Byte)) :
    ∀ {got : List Byte} {s : State}, HasRead frame got s → (∀ bs ∈ bursts, bs ≠ []) → got ++ bursts.flatten = frame →
      s.chan = [] → s.inputs = bursts.map .rxBurst →
      ∃ t, awaitRead bursts.length s = .next (some (BitVec.ofNat 16 frame.length), t) ∧ received t = frame := by
  induction bursts with
  | nil =>
    intro got s h _ hall _ _
    obtain rfl : got = frame := by simpa using hall
    obtain ⟨hidle, _, hresp⟩ := h.whole rfl
    exact ⟨s, by rw [awaitRead_idle hidle, hresp], h.bytes⟩
  | cons bs bursts ih =>
    intro got s h hne hall hchan hin
    rw [List.flatten_cons, ← List.append_assoc] at hall
    have hbs := hne bs List.mem_cons_self
    have hpre : got ++ bs <+: frame := ⟨_, hall⟩
    have hlt : got.length < frame.length := by
      have hpos := List.length_pos_iff.mpr hbs
      have hle : got.length + bs.length ≤ frame.length := by simpa using hpre.length_le
      omega
    have hbusy := h.busy hlt
    set u : State := { s with inputs := bursts.map .rxBurst } with hu
    have hread : HasRead frame got u := h.takeInput _
    have honly := OnlyReaderChanged.iff_eq.mp (hread.burst_frame hframe hbs hpre).1
    have hchan' : (receive bs u).chan = [] := by rw [honly]; exact hchan
    have hin' : (receive bs u).inputs = bursts.map .rxBurst := by rw [honly]
    have hstep : step s = .next (receive bs u) := step_burst (nextTurn_rxBurst (.inr ⟨hbusy, hchan⟩) hin)
    rw [List.length_cons, awaitRead_busy hbusy, hstep, andThen_next]
    exact ih (hread.burst hframe hbs hpre) (fun b hb => hne b (List.mem_cons_of_mem _ hb)) hall hchan' hin'

/-- A busy block to which nothing comes does not answer. -/
theorem awaitRead_waits {s : State} (hbusy : s.rdPhase ≠ .idle) (hchan : s.chan = []) (hin : s.inputs = []) (n : Nat) :
    awaitRead n s = .next (none, s) := by
  induction n with
  | zero => rw [awaitRead, if_neg hbusy]
  | succ n ih => rw [awaitRead_busy hbusy, step_waits (.inr ⟨hbusy, hchan⟩) hin, andThen_next, ih]

theorem readFrameCall_idle {s : State} (h : s.rdPhase = .idle) (n : Nat) : readFrameCall n s = awaitRead n (beginRead s) := by
  rw [readFrameCall, exec_readFrame_idle h, andThen_next]

/-- Settles O59: the read begins with nothing accumulated, and then awaits a frame, a timeout, or nothing. -/
theorem readFrameCallReturnsTheCount : Obligations.ReadFrameCallReturnsTheCount := by
  refine ⟨fun i bursts s hspace hwf hfits hne hall hidle hchan hin hmem => ?_, fun s rest hidle hin => ?_,
    fun s n hidle hchan hin => ?_⟩
  · have hframe := readable_encode hspace hwf hfits
    have hstart : HasRead (encode i) [] (beginRead s) := .start hframe ⟨rfl, rfl, rfl⟩ hmem
    rw [readFrameCall_idle hidle]
    exact awaitRead_bursts hframe bursts hstart hne hall hchan hin
  · have hstep := step_rxTimeout (s := beginRead s) hin
    rw [rxTimeout_busy (by simp)] at hstep
    exact ⟨_, by rw [readFrameCall_idle hidle, awaitRead_busy (by simp), hstep, andThen_next, awaitRead_idle rfl]; rfl, rfl⟩
  · exact ⟨_, by rw [readFrameCall_idle hidle, awaitRead_waits (s := beginRead s) (by simp) hchan hin]⟩

end Sys2Proof.Machine
end
